-- ==== Sys2Proof/Word.lean ====
section
/-! DEFINITION. Word.lean: the widths of QP's values (R7, 00_scope.md) and the RGB triple.
Bit 0 is the least significant bit of every value and every value is unsigned (R7), which is
what `BitVec` gives. -/

namespace Sys2Proof

/-- `u8`: a colour channel or an output byte (R7). -/
abbrev Byte := BitVec 8

/-- `u2`: a palette code (R7, R54). -/
abbrev Code := BitVec 2

/-- The 24-bit operand word `RGB24` (R51). -/
abbrev RgbWord := BitVec 24

/-- The 26-bit operation word `OPW` = `op` above `rgb` (R53). -/
abbrev OpWord := BitVec 26

/-- A distance value, `DIST_W` = 18 bits unsigned (R6, R74). -/
abbrev DistVal := BitVec 18

/-- An RGB triple `(r, g, b)`, each component a `u8` (R7); the three channels stay separate
fields, as 92_eei_decisions.md D3 asks. -/
structure Rgb where
  r : Byte
  g : Byte
  b : Byte
  deriving DecidableEq, Repr

end Sys2Proof
end

