-- ==== Sys2Proof/Config.lean ====
section
/-! DEFINITION. Config.lean: the parameters of the model (R6, 00_scope.md).
The palette's two open colours are the fields of `Config`, an argument of the model; the frame
constants belong to the host (D16); `LAT` and `RESET_KIND` are open and read by no rule, so they
are constants without a body. -/

namespace Sys2Proof

/-- The four palette entries by name, in scan order (R9, R15, R16). -/
inductive Colour where
  | black
  | white
  | yellow
  | red
  deriving DecidableEq, Repr

/-- One entry of PAL: a colour and its code, kept as separate fields (R15, R77). -/
structure PaletteEntry where
  color : Rgb
  code : Code
  deriving DecidableEq, Repr

/-- The configuration record (R6, R20): the two OPEN colours `PAL_RGB[2]` (yellow) and `PAL_RGB[3]`
(red). It is fixed for one machine: no operation and no reset changes it (R16). -/
structure Config where
  yellow : Rgb
  red : Rgb
  deriving DecidableEq, Repr

/-- `RESET_KIND` (R6): synchronous or asynchronous reset. -/
inductive ResetKind where
  | synchronous
  | asynchronous
  deriving DecidableEq, Repr, Inhabited

/-- `LAT` (R6, D7): OPEN, any natural number; no rule of the model reads it. A free value. -/
opaque Config.lat : Nat

/-- `RESET_KIND` (R6, D9): OPEN; no rule of the model reads it. A free value. -/
opaque Config.resetKind : ResetKind

/-- `NPAL` (R6): the number of palette entries. -/
def Config.npal : Nat := 4

/-- `GROUP` (R6): codes per output byte. -/
def Config.group : Nat := 4

/-- `W` (R6): frame width in pixels, a host-side constant the block never reads (D16). -/
def Config.frameWidth : Nat := 800

/-- `H` (R6): frame height in pixels, a host-side constant (D16). -/
def Config.frameHeight : Nat := 480

/-- `EXPECTED_BYTES` (R6): the byte count the host checks, `W*H/4`. -/
def Config.expectedBytes : Nat := Config.frameWidth * Config.frameHeight / Config.group

end Sys2Proof
end

