-- ==== Sys2Proof/Machine/Palette.lean ====
section
/-! DEFINITION. Machine/Palette.lean: PAL, the constant table of four entries in scan order
(R15, R16, 10_state.md), as a function of the configuration. -/

namespace Sys2Proof

/-- The colour at scan position `k`: black, white, yellow, red (R9 "scan order", R15). -/
def Colour.ofIndex : Fin 4 → Colour
  | 0 => .black
  | 1 => .white
  | 2 => .yellow
  | 3 => .red

/-- The scan position of a colour (R15). -/
def Colour.index : Colour → Fin 4
  | .black => 0
  | .white => 1
  | .yellow => 2
  | .red => 3

/-- `PAL_CODE` by name (R15, R54): 00, 01, 10, 11. -/
def Colour.code : Colour → Code
  | .black => 0b00#2
  | .white => 0b01#2
  | .yellow => 0b10#2
  | .red => 0b11#2

/-- `PAL_RGB` by name (R15): black and white are fixed, yellow and red are the open parameters. -/
def Config.rgbOf (cfg : Config) : Colour → Rgb
  | .black => ⟨0#8, 0#8, 0#8⟩
  | .white => ⟨255#8, 255#8, 255#8⟩
  | .yellow => cfg.yellow
  | .red => cfg.red

/-- Entry `k` of PAL, `(PAL_RGB[k], PAL_CODE[k])` (R15). -/
def Config.entry (cfg : Config) (k : Fin 4) : PaletteEntry :=
  ⟨cfg.rgbOf (Colour.ofIndex k), (Colour.ofIndex k).code⟩

/-- `PAL_RGB[k]` (R15). -/
def Config.palRgb (cfg : Config) (k : Fin 4) : Rgb := (cfg.entry k).color

/-- `PAL_CODE[k]` (R15). -/
def Config.palCode (cfg : Config) (k : Fin 4) : Code := (cfg.entry k).code

/-- The defaults R6 states for the OPEN colours, yellow (255,255,0) and red (255,0,0).
PRESUMED: the spec itself marks both "from general knowledge, not in source" (K1, K2; log entry 2). -/
def Config.default : Config :=
  { yellow := ⟨255#8, 255#8, 0#8⟩, red := ⟨255#8, 0#8, 0#8⟩ }

end Sys2Proof
end

