-- ==== Sys2Proof/Machine/State.lean ====
section
/-! DEFINITION. Machine/State.lean: the state of QP (R10 to R24, 10_state.md), what the host has
presented at the input ports (R50, R160), the outputs of the last step (R19), and the ways a run stops. -/

namespace Sys2Proof.Machine

/-- `Out` (R8, R19): the outputs of one step. `none` is a deasserted valid line; the data lines then
have no value in the model (R19, U4, D23). -/
structure Out where
  outByte : Option Byte
  qCode : Option Code
  deriving DecidableEq, Repr

/-- One value of the input ports `(rst, op, rgb)` that the block takes as one step (R50). -/
structure Ports where
  rst : Bool
  op : BitVec 2
  rgb : RgbWord
  deriving DecidableEq, Repr

/-- The block and its surroundings, as plain data. `cnt` and `acc` are the whole architectural state (R10);
`out`, `input` and `cfg` are the MODEL's own fields (log entries 1, 3, 4): `out` the outputs of the last step,
which no operation reads (R14); `input` what the host has presented and the block has not yet taken, oldest
first (R39, R160); `cfg` the configuration record, an argument of the model that no step changes (R6, R16, R20). -/
structure State where
  /-- Codes of the current group already placed in `acc` (R11). -/
  cnt : BitVec 2
  /-- The partial output byte (R12). -/
  acc : Byte
  /-- The outputs of the last step (R19): not state of the block. -/
  out : Out
  /-- The values the host presents at the input ports, oldest first (R50, R160). -/
  input : List Ports
  /-- The open palette colours (R6). -/
  cfg : Config
  deriving DecidableEq, Repr

/-- Why a conversion stops with a fault. No operation of the block raises anything (R130); the spec has one failure
and it is the host's (R132). -/
inductive Fault where
  /-- `SizeMismatch(emitted, expected)` (R132, R133): raised by the HOST's check after a conversion (`convertFrame`), never by
  `exec` or `step`. Safe: the spec's own failure, raised exactly when the spec says. -/
  | sizeMismatch (emitted expected : Nat)
  deriving DecidableEq, Repr

/-- Why something has no meaning. No operation of the block is refused (R130). -/
inductive Refusal where
  /-- An operation that has no meaning yet. Raised by no arm of `exec`: all four operations have their meaning. Safe. -/
  | notModelled (mnemonic : String)
  /-- Nothing is presented at the input ports, so there is no step: a step is one accepted value of the ports (R42, R50),
  and a run is over after its last operation (R160). Raised by `step`. Safe: it claims nothing. -/
  | noOperation
  /-- A channel outside 0..255 in the stimulus notation, an assembly error (R58, U2). Raised by `assemble`. Safe. -/
  | channelOutOfRange
  /-- A line that is not in the stimulus notation (R58, R59). Raised by `parseLine`. Safe. -/
  | unreadableLine
  /-- The Verifier's buffer length does not match width times height (R114, U11). Raised by `unpackRows`. Safe. -/
  | shapeMismatch
  deriving DecidableEq, Repr

/-- The outputs of a step that neither emits nor shows a code (R19). -/
def Out.silent : Out := { outByte := none, qCode := none }

/-- The machine right after reset (R24): `cnt` = 0, `acc` = 0x00, no output. Nothing is presented at the ports yet
(log entry 3); the open colours are R6's stated defaults (log entry 2), on which no general statement rests. -/
def State.reset : State :=
  { cnt := 0#2, acc := 0#8, out := Out.silent, input := [], cfg := Config.default }

end Sys2Proof.Machine
end

