-- ==== Sys2Proof/Machine/Ops.lean ====
section
/-! DEFINITION. Machine/Ops.lean: the operations shared by the meanings: the outputs of a step (R8), the
clear (R9), placing a code in its pair (R12, R92), the Packer's move (R92), and reset (R150).
QP takes no exception, so there is no exception entry and no return (R130, R135, R136). -/

namespace Sys2Proof.Machine

/-- A step starts with no output: a step that calls neither `Emit` nor `Code` has none (R8). -/
def State.silence (s : State) : State := { s with out := Out.silent }

/-- `Code(c)` (R8): the step's `q_code` is `some c`. -/
def State.showCode (c : Code) (s : State) : State := { s with out := { s.out with qCode := some c } }

/-- `Emit(v)` (R8): the step's `out_byte` is `some v`. -/
def State.emit (v : Byte) (s : State) : State := { s with out := { s.out with outByte := some v } }

/-- Write the two registers of the Packer. -/
def State.setGroup (cnt : BitVec 2) (acc : Byte) (s : State) : State := { s with cnt := cnt, acc := acc }

/-- A clear (R9): `cnt <- 0`, `acc <- 0`. -/
def State.clearGroup (s : State) : State := s.setGroup 0#2 0x00#8

/-- The shift that takes a code to pair `3 - cnt`: 6, 4, 2, 0 for `cnt` = 0, 1, 2, 3 (R92). -/
def pairShift (cnt : BitVec 2) : Nat := 2 * (3 - cnt.toNat)

/-- `acc | (zext_8(c) << sh)`: the code placed in pair `3 - cnt` (R12, R92). -/
def placeCode (cnt : BitVec 2) (acc : Byte) (c : Code) : Byte :=
  acc ||| (c.setWidth 8 <<< pairShift cnt)

/-- The Packer's move on one code (R92): place it, then emit and clear if the group is complete, in that order
(R137(c)). -/
def State.pushCode (c : Code) (s : State) : State :=
  if s.cnt = 3#2 then (s.emit (placeCode s.cnt s.acc c)).clearGroup
  else s.setGroup (s.cnt + 1#2) (placeCode s.cnt s.acc c)

/-- Reset (R150): every state element takes its reset value of R24 and the step has no output. PAL is not touched (R16),
nor is what the host presents later. -/
def State.applyReset (s : State) : State := s.silence.clearGroup

end Sys2Proof.Machine
end

