-- ==== Sys2Proof/Machine/Operands.lean ====
section
/-! DEFINITION. Machine/Operands.lean: what the Quantizer makes of an operand (R56): the channel difference, its square and the
distance, at the widths of R73 and R74 (40_quantizer.md). -/

namespace Sys2Proof.Machine

/-- `diff : s9 <- zext_9(c) - zext_9(p)` (R73): 9 bits in two's complement. -/
def channelDiff (c p : Byte) : BitVec 9 := c.setWidth 9 - p.setWidth 9

/-- The square of a signed difference, 16 bits unsigned (R74). -/
def squareDiff (d : BitVec 9) : BitVec 16 := BitVec.ofInt 16 (d.toInt * d.toInt)

/-- `dist` of R72: the sum of the three squares, as a `u18` (R74). -/
def sqDist (x y : Rgb) : DistVal :=
  (squareDiff (channelDiff x.r y.r)).setWidth 18
    + (squareDiff (channelDiff x.g y.g)).setWidth 18
    + (squareDiff (channelDiff x.b y.b)).setWidth 18

end Sys2Proof.Machine
end

