-- ==== Sys2Proof/Machine/Quantizer.lean ====
section
/-! DEFINITION. Machine/Quantizer.lean: QNT, the combinational function `nearest` (R70, R71, 40_quantizer.md). It reads PAL and
its operand, writes nothing and is total. -/

namespace Sys2Proof.Machine

/-- `d[k]` (R71): the distance of the pixel to entry `k`. -/
def distTo (cfg : Config) (p : Rgb) (k : Fin 4) : DistVal := sqDist p (cfg.palRgb k)

/-- The scan of R71: `best` starts at 0 and is replaced, for k = 1, 2, 3 in this order, only on a strictly smaller distance
(R75). -/
def scanBest (d : Fin 4 → DistVal) : Fin 4 :=
  [(1 : Fin 4), 2, 3].foldl (fun best k => if d k < d best then k else best) 0

/-- `nearest` (R71, R77): the code of the selected entry. -/
def nearest (cfg : Config) (p : Rgb) : Code := cfg.palCode (scanBest (distTo cfg p))

end Sys2Proof.Machine
end

