-- ==== Sys2Proof/Machine/Packer.lean ====
section
/-! DEFINITION. Machine/Packer.lean: the meanings of the four operations (R91 to R94, 41_packer.md). None raises anything, in any state,
with any operand (R130). -/

namespace Sys2Proof.Machine

/-- NOP (R91): nothing, and no output. -/
def execNop (s : State) : Host.Outcome State Fault Refusal := .next s.silence

/-- PIX (R92): quantize, show the code, place it, emit the byte if the group is complete. -/
def execPix (p : Rgb) (s : State) : Host.Outcome State Fault Refusal :=
  .next ((s.silence.showCode (nearest s.cfg p)).pushCode (nearest s.cfg p))

/-- CLR (R94): drop any partial group, without a byte, a flag or an error. -/
def execClr (s : State) : Host.Outcome State Fault Refusal := .next s.silence.clearGroup

/-- PIXF (R93): the first pixel of a conversion; its code goes to pair 3 over zeros, whatever the registers held. -/
def execPixf (p : Rgb) (s : State) : Host.Outcome State Fault Refusal :=
  .next ((s.silence.showCode (nearest s.cfg p)).setGroup 1#2 ((nearest s.cfg p).setWidth 8 <<< 6))

end Sys2Proof.Machine
end

