-- ==== Sys2Proof/Syntax.lean ====
section
/-! DEFINITION. Syntax.lean: the four operations of QP (R52, 30_encoding.md) and the abstract form of
the stimulus notation (R58, R59). -/

namespace Sys2Proof

/-- The operation set (R52, R90): one constructor per row of the operation table. NOP and CLR carry
no operand: their `rgb` field is don't care (R57). -/
inductive Instr where
  /-- NOP, `op` = 0b00 (R91). -/
  | nop
  /-- PIX, `op` = 0b01: quantize the pixel and place its code (R92). -/
  | pix (p : Rgb)
  /-- CLR, `op` = 0b10: drop any partial group (R94). -/
  | clr
  /-- PIXF, `op` = 0b11: CLR then PIX as one step (R93). -/
  | pixf (p : Rgb)
  deriving DecidableEq, Repr

/-- One operation as the stimulus notation writes it (R58, R59). Numbers are as written, so a channel
may be out of range: that is an assembly error (R58), which `StimOp.wellFormed` finds. -/
inductive StimOp where
  /-- `nop` -/
  | nop
  /-- `pix r, g, b` -/
  | pix (r g b : Nat)
  /-- `pix #RRGGBB` -/
  | pixHex (rgb : Nat)
  /-- `clr` -/
  | clr
  /-- `pixf r, g, b` -/
  | pixf (r g b : Nat)
  /-- `pixf #RRGGBB` -/
  | pixfHex (rgb : Nat)
  /-- The pseudo-operation `end`, a `clr` (R59). -/
  | endConversion
  /-- The pseudo-operation `start`, a `clr` (R59). -/
  | startConversion
  /-- `black`, `white`, `yellow`, `red`: `pix` with that palette colour (R59). -/
  | colour (c : Colour)
  deriving DecidableEq, Repr

/-- One line of a stimulus script: an operation, or `rep n, <operation>` (R59). -/
inductive StimLine where
  | one (o : StimOp)
  | rep (n : Nat) (o : StimOp)
  deriving DecidableEq, Repr

end Sys2Proof
end

