-- ==== Sys2Proof/Machine/Dispatch.lean ====
section
/-! DEFINITION. Machine/Dispatch.lean: the step dispatches on the operation to rules R91 to R94; there is no other case (R90). -/

namespace Sys2Proof.Machine

def exec (i : Instr) (s : State) : Host.Outcome State Fault Refusal :=
  match i with
  | .nop => Sys2Proof.Machine.execNop s
  | .pix p => Sys2Proof.Machine.execPix p s
  | .clr => Sys2Proof.Machine.execClr s
  | .pixf p => Sys2Proof.Machine.execPixf p s

end Sys2Proof.Machine
end

