-- ==== Sys2Proof/Decode.lean ====
section
/-! DEFINITION. Decode.lean: the operand and operation-word formats (R51, R53), the decoder, total on
all 2^26 operation words (R57), the rejection by name of a number that is no operation word, the
encoder, and the operation table as data. -/

namespace Sys2Proof

/-- The three channels of an operand word: r in 23:16, g in 15:8, b in 7:0 (R51, R56). -/
def rgbOfWord (w : RgbWord) : Rgb :=
  ⟨w.extractLsb' 16 8, w.extractLsb' 8 8, w.extractLsb' 0 8⟩

/-- The operand word of a triple: red in the high byte (R51). -/
def wordOfRgb (p : Rgb) : RgbWord := (p.r ++ p.g ++ p.b : BitVec (8 + 8 + 8))

/-- The `op` field, bits 25:24 of the operation word (R53). -/
def opField (w : OpWord) : BitVec 2 := w.extractLsb' 24 2

/-- The `rgb` field, bits 23:0 of the operation word (R53). -/
def rgbField (w : OpWord) : RgbWord := w.extractLsb' 0 24

/-- The operation word `OPW` of an `op` value and an operand word: `op` above `rgb` (R53). -/
def opWord (op : BitVec 2) (rgb : RgbWord) : OpWord := (op ++ rgb : BitVec (2 + 24))

/-- The decoder (R52, R53): bit 1 of `op` says "clear first", bit 0 "a pixel is presented". Total: no
value of `op` or `rgb` is illegal (R57). The `rgb` field of NOP and CLR is ignored (R57). -/
def decode (w : OpWord) : Instr :=
  match (opField w).getLsbD 1, (opField w).getLsbD 0 with
  | false, false => .nop
  | false, true => .pix (rgbOfWord (rgbField w))
  | true, false => .clr
  | true, true => .pixf (rgbOfWord (rgbField w))

/-- The encoder (R52, R53); NOP and CLR in canonical form, `rgb` = 0 (R57). -/
def encode : Instr → OpWord
  | .nop => opWord 0b00#2 0#24
  | .pix p => opWord 0b01#2 (wordOfRgb p)
  | .clr => opWord 0b10#2 0#24
  | .pixf p => opWord 0b11#2 (wordOfRgb p)

/-- Why a number is no operation word. -/
inductive DecodeError where
  /-- The number needs more than the 26 bits of `OPW` (R53: one length and one format). Raised by
  `decodeNumber`; safe: no such word can be presented at the ports (R50). -/
  | widerThanOpw
  deriving DecidableEq, Repr

/-- Decode a word given as a number, rejecting by name what does not fit `OPW` (R53). -/
def decodeNumber (w : Nat) : Except DecodeError Instr :=
  if w < 2 ^ 26 then .ok (decode (BitVec.ofNat 26 w)) else .error .widerThanOpw

/-- The instruction of a table word: bit 0 is the word's least significant bit, and every bit from
`nbits` on is 0. -/
def decodeTableWord (nbits w : Nat) : Option Instr :=
  match decodeNumber (w % 2 ^ nbits) with
  | .ok i => some i
  | .error _ => none

/-- The mnemonic of an operation (R52). -/
def Instr.mnemonic : Instr → String
  | .nop => "NOP"
  | .pix _ => "PIX"
  | .clr => "CLR"
  | .pixf _ => "PIXF"

/-- The mask that selects `op` in every row of the operation table (R53). -/
def opMask : OpWord := 0x3000000#26

/-- The match value of each operation (R53). -/
def Instr.pattern : Instr → OpWord
  | .nop => 0x0000000#26
  | .pix _ => 0x1000000#26
  | .clr => 0x2000000#26
  | .pixf _ => 0x3000000#26

end Sys2Proof
end

