-- ==== Sys2Proof/Machine/Fetch.lean ====
section
/-! DEFINITION. Machine/Fetch.lean: the input ports. QP has no program counter and fetches nothing (R13, R41): it takes the operation the
host presents, in the order presented (R39), each exactly once (R42). -/

namespace Sys2Proof.Machine

/-- The operation word at the ports, `op` above `rgb` (R53). -/
def Ports.word (p : Ports) : OpWord := opWord p.op p.rgb

/-- The ports that present an operation word, `rst` = 0 (R50, R53). -/
def Ports.ofWord (w : OpWord) : Ports := { rst := false, op := opField w, rgb := rgbField w }

/-- The ports that present an operation in canonical form (R57). -/
def Ports.ofInstr (i : Instr) : Ports := Ports.ofWord (encode i)

/-- An assertion of `rst` with nothing at the other ports (R50). -/
def Ports.reset : Ports := { rst := true, op := 0b00#2, rgb := 0#24 }

/-- The operation the block takes: none while `rst` is asserted, since reset overrides whatever is presented (R137(a)). -/
def Ports.operation (p : Ports) : Option Instr := if p.rst then none else some (decode p.word)

/-- The next value at the ports and the state once it has been taken (R39, R42). -/
def State.takePorts (s : State) : Option (Ports × State) :=
  match s.input with
  | [] => none
  | p :: rest => some (p, { s with input := rest })

/-- `s` with an operation word presented next, before everything already waiting. A number that does not fit the 26 port bits
cannot be presented (R50), so it changes nothing. -/
def State.present (s : State) (w : Nat) : State :=
  if w < 2 ^ 26 then { s with input := Ports.ofWord (BitVec.ofNat 26 w) :: s.input } else s

end Sys2Proof.Machine
end

