-- ==== Sys2Proof/Machine/Step.lean ====
section
/-! DEFINITION. Machine/Step.lean: one step of the machine: one accepted value of the input ports (R50, R90). -/

namespace Sys2Proof.Machine

/-- One step (R50, R90, R137): take the next value at the ports; an asserted `rst` resets the block and the coincident
operation is not taken; otherwise the presented operation runs. With nothing presented there is no step (R42, R160). -/
def step (s : State) : Host.Outcome State Fault Refusal :=
  match s.takePorts with
  | none => .refused .noOperation
  | some (p, t) =>
    match p.operation with
    | none => .next t.applyReset
    | some i => exec i t

/-- `s` with a table word presented at the ports next. -/
def State.withFetchWord (s : State) (nbits w : Nat) : State := s.present (w % 2 ^ nbits)

end Sys2Proof.Machine
end

