-- ==== Sys2Proof/Machine/Flags.lean ====
section
/-! DEFINITION. Machine/Flags.lean: QP has no status flag, condition code or sticky bit (R14). What stands here are the two
valid lines of a step's outputs (R50), which are outputs and not flags. -/

namespace Sys2Proof.Machine

/-- `q_valid` (R50): 1 iff this step's `q_code` is `some`. -/
def Out.qValid (o : Out) : Bool := o.qCode.isSome

/-- `out_valid` (R50): 1 iff this step's `out_byte` is `some`. -/
def Out.outValid (o : Out) : Bool := o.outByte.isSome

end Sys2Proof.Machine
end

