-- ==== Sys2Proof/Machine/Forms.lean ====
section
/-! DEFINITION. Machine/Forms.lean: the other hardware forms the spec describes: parallel comparators (R80), the distance accumulator (R81),
the absolute difference (R73), and the shift-register Packer (R96). Each is stated equal to the model elsewhere. -/

namespace Sys2Proof.Machine

/-- The balanced comparator tree (R80): the lower index is kept on equality at every comparison. -/
def treeBest (d : Fin 4 → DistVal) : Fin 4 :=
  let w01 : Fin 4 := if d 1 < d 0 then 1 else 0
  let w23 : Fin 4 := if d 3 < d 2 then 3 else 2
  if d w23 < d w01 then w23 else w01

/-- One update of the running pair `(best, dbest)` (R81). -/
def accumulateBest (d : Fin 4 → DistVal) (run : Fin 4 × DistVal) (k : Fin 4) : Fin 4 × DistVal :=
  if d k < run.2 then (k, d k) else run

/-- The distance accumulator (R81): `(0, d[0])`, then k = 1, 2, 3. -/
def accumulatorBest (d : Fin 4 → DistVal) : Fin 4 := ([(1 : Fin 4), 2, 3].foldl (accumulateBest d) (0, d 0)).1

/-- `|c-p|` in 8 bits unsigned (R73). -/
def absDiff (c p : Byte) : Byte := if p ≤ c then c - p else p - c

/-- The square of an absolute difference (R73). -/
def squareAbs (a : Byte) : BitVec 16 := a.setWidth 16 * a.setWidth 16

/-- A distance accumulated one channel at a time, from absolute differences (R73, R81). -/
def distAccumulated (channels : List (Byte × Byte)) : DistVal :=
  channels.foldl (fun sum ch => sum + (squareAbs (absDiff ch.1 ch.2)).setWidth 18) 0#18

/-- The shift-register Packer (R96): the count of codes since the last emission or clear, and `sr`. -/
structure ShiftPacker where
  cnt : BitVec 2
  sr : Byte
  deriving DecidableEq, Repr

/-- `sr' = ((sr << 2) | zext_8(c)) & 0xFF`, emitted on every fourth code (R96). -/
def ShiftPacker.push (c : Code) (s : ShiftPacker) : ShiftPacker × Out :=
  let sr' : Byte := (s.sr <<< 2) ||| c.setWidth 8
  if s.cnt = 3#2 then (⟨0#2, sr'⟩, ⟨some sr', some c⟩) else (⟨s.cnt + 1#2, sr'⟩, ⟨none, some c⟩)

/-- One operation of the shift-register form; a clear only restarts the count, `sr` needs no clearing (R96). -/
def ShiftPacker.step (cfg : Config) (s : ShiftPacker) : Instr → ShiftPacker × Out
  | .nop => (s, Out.silent)
  | .pix p => s.push (nearest cfg p)
  | .clr => (⟨0#2, s.sr⟩, Out.silent)
  | .pixf p => ShiftPacker.push (nearest cfg p) ⟨0#2, s.sr⟩

/-- The outputs of a sequence of operations on the shift-register form (R96). -/
def ShiftPacker.outputs (cfg : Config) : ShiftPacker → List Instr → List Out
  | _, [] => []
  | s, i :: is => (s.step cfg i).2 :: ShiftPacker.outputs cfg (s.step cfg i).1 is

end Sys2Proof.Machine
end

