-- ==== Sys2Proof/Machine/Reference.lean ====
section
/-! DEFINITION. Machine/Reference.lean: the whole-stream reference functions (R4, R110 to R116, 42_reference_functions.md). Pure mathematics
over lists, not hardware. -/

namespace Sys2Proof.Machine

/-- `codes(P)` (R110). -/
def codes (cfg : Config) (ps : List Rgb) : List Code := ps.map (nearest cfg)

/-- `palette_color_of(c) = PAL_RGB[c]` (R54, R110). -/
def paletteColorOf (cfg : Config) (c : Code) : Rgb := cfg.palRgb c.toFin

/-- `quantize(P)` (R110): each pixel replaced with its nearest palette colour. -/
def quantize (cfg : Config) (ps : List Rgb) : List Rgb := ps.map fun p => paletteColorOf cfg (nearest cfg p)

/-- A completed byte (R32, R95): the concatenation of four codes, the first in bits 7:6. -/
def packByte (c0 c1 c2 c3 : Code) : Byte := (c0 ++ c1 ++ c2 ++ c3 : BitVec (2 + 2 + 2 + 2))

/-- The bytes of a list of codes; a trailing group of fewer than four is dropped (R35, R111). -/
def packCodes : List Code → List Byte
  | c0 :: c1 :: c2 :: c3 :: cs => packByte c0 c1 c2 c3 :: packCodes cs
  | _ => []

/-- `pack(P)` (R111). -/
def pack (cfg : Config) (ps : List Rgb) : List Byte := packCodes (codes cfg ps)

/-- Codes left-aligned over zeros, the first at shift `sh` (R112, R12). -/
def leftAlignedFrom (sh : Nat) : List Code → Byte
  | [] => 0#8
  | c :: cs => (c.setWidth 8 <<< sh) ||| leftAlignedFrom (sh - 2) cs

/-- A partial byte: up to four codes left-aligned over zeros, the first in bits 7:6 (R12, R112). -/
def leftAligned (cs : List Code) : Byte := leftAlignedFrom 6 cs

/-- The trailing group of a list (R9): its last `n mod 4` elements. -/
def trailing {α : Type} (xs : List α) : List α := xs.drop (4 * (xs.length / 4))

/-- Pair number `k` of a byte, bits `2k+1 : 2k` (R9, R32). -/
def pairOf (b : Byte) (k : Nat) : Code := b.extractLsb' (2 * k) 2

/-- The four codes of a byte, in the high-to-low order of the Packer (R114). -/
def unpackByte (b : Byte) : List Code := [pairOf b 3, pairOf b 2, pairOf b 1, pairOf b 0]

/-- `unpack(B)` on the byte list (R114). -/
def unpack (cfg : Config) (bs : List Byte) : List Rgb := (bs.flatMap unpackByte).map (paletteColorOf cfg)

/-- Rows of `width` pixels, row-major (R31, R114). -/
def rowsOf (width height : Nat) (ps : List Rgb) : List (List Rgb) :=
  (List.range height).map fun y => (ps.drop (y * width)).take width

/-- `unpack(B, width, height)` shaped into rows (R114); the shaping is undefined on a mismatch and refused by name (U11). -/
def unpackRows (cfg : Config) (bs : List Byte) (width height : Nat) : Except Refusal (List (List Rgb)) :=
  if bs.length * 4 = width * height then .ok (rowsOf width height (unpack cfg bs)) else .error .shapeMismatch

/-- An uppercase hexadecimal digit (R116). -/
def hexDigit (n : Nat) : Char := if n < 10 then Char.ofNat (48 + n) else Char.ofNat (55 + n)

/-- One token of the Emitter's listing (R116): two uppercase hexadecimal digits after `0x`, then a comma and a space. -/
def renderToken (b : Byte) : List Char :=
  ['0', 'x', hexDigit (b.toNat / 16), hexDigit (b.toNat % 16), ',', ' ']

/-- The Emitter's listing as lines of 12 tokens (R116). Indentation and the enclosing declaration are not in the source (U12). -/
def renderLines (bs : List Byte) : List (List (List Char)) :=
  (List.range ((bs.length + 11) / 12)).map fun k => ((bs.drop (12 * k)).take 12).map renderToken

/-- How many of the 2^24 RGB triples satisfy a predicate (R83). -/
def countTriples (f : Rgb → Bool) : Nat :=
  ((List.range 256).map fun r => ((List.range 256).map fun g =>
    (List.range 256).countP fun b => f ⟨BitVec.ofNat 8 r, BitVec.ofNat 8 g, BitVec.ofNat 8 b⟩).sum).sum

/-- Chunks of a frame given to separate instances, each started with a clear; their outputs in chunk order (R43). -/
def packChunks (cfg : Config) (chunks : List (List Rgb)) : List Byte := chunks.flatMap (pack cfg)

end Sys2Proof.Machine
end

