-- ==== Sys2Proof/Machine/Run.lean ====
section
/-! DEFINITION. Machine/Run.lean: runs (R160): the outputs of a sequence of steps, and how a run splits into conversions at the clears
(R98). -/

namespace Sys2Proof.Machine

/-- `k` steps, with the outputs of each step in order (R160). -/
def runSteps : Nat → State → Host.Outcome (State × List Out) Fault Refusal
  | 0, s => .next (s, [])
  | k + 1, s =>
    match step s with
    | .next s' =>
      match runSteps k s' with
      | .next (t, outs) => .next (t, s'.out :: outs)
      | .fault f => .fault f
      | .refused r => .refused r
    | .fault f => .fault f
    | .refused r => .refused r

/-- The run of everything the host has presented: it is over when the last operation has had its full effect (R160). -/
def runInput (s : State) : Host.Outcome (State × List Out) Fault Refusal := runSteps s.input.length s

/-- `s` with these operations presented, and nothing else. -/
def State.presenting (s : State) (is : List Instr) : State := { s with input := is.map Ports.ofInstr }

/-- The PackedBuffer of a sequence of steps: the emitted bytes in order (R9, R38). -/
def bytesOf (outs : List Out) : List Byte := outs.filterMap Out.outByte

/-- The codes shown by a sequence of steps, in order (R39(a)). -/
def codesOf (outs : List Out) : List Code := outs.filterMap Out.qCode

/-- A clear starts here: reset, CLR, or the clearing half of PIXF (R9, R98). -/
def Ports.clears (p : Ports) : Bool :=
  match p.operation with
  | none => true
  | some .clr => true
  | some (.pixf _) => true
  | some .nop => false
  | some (.pix _) => false

/-- The pixel this value of the ports presents, if it is taken as one (R31). -/
def Ports.pixel (p : Ports) : Option Rgb :=
  match p.operation with
  | some (.pix x) => some x
  | some (.pixf x) => some x
  | some .nop => none
  | some .clr => none
  | none => none

/-- Put an element, if there is one, in front of the first list. -/
def consHead {α : Type} (x : Option α) : List (List α) → List (List α)
  | [] => [x.toList]
  | l :: ls => (x.toList ++ l) :: ls

/-- Split a sequence at its clears: the first list is what stands before the first clear, and each clear starts a new list (R98). -/
def splitAtClears {β α : Type} (clears : β → Bool) (item : β → Option α) : List β → List (List α)
  | [] => [[]]
  | e :: es =>
    if clears e then [] :: consHead (item e) (splitAtClears clears item es)
    else consHead (item e) (splitAtClears clears item es)

/-- The PixelStreams of the conversions of a run (R98). -/
def pixelStreams (ps : List Ports) : List (List Rgb) := splitAtClears Ports.clears Ports.pixel ps

/-- The PackedBuffers of the conversions of a run, from what was presented and what came out (R98). -/
def packedBuffers (steps : List (Ports × Out)) : List (List Byte) :=
  splitAtClears (fun e => e.1.clears) (fun e => e.2.outByte) steps

end Sys2Proof.Machine
end

