-- ==== Sys2Proof/Machine/Glue.lean ====
section
/-! DEFINITION. Machine/Glue.lean: the host that drives the block (R133 to R135, R153 to R156): it clears, presents the pixels, collects the
bytes, checks their count, and releases only a buffer that passed. Also the frame geometry (R31, R37), which the block never reads. -/

namespace Sys2Proof.Machine

/-- What the host releases after a check that passed (R134): the packed buffer, the textual listing, the preview raster. -/
structure Release where
  buffer : List Byte
  listing : List (List (List Char))
  preview : List Rgb
  deriving DecidableEq, Repr

/-- The host's check (R133). -/
def checkSize (emitted expected : Nat) : Except Fault Unit :=
  if emitted ≠ expected then .error (.sizeMismatch emitted expected) else .ok ()

/-- What the host presents for one conversion: the clear first (R153), then one PIX per pixel in order (R154). -/
def frameOperations (ps : List Rgb) : List Instr := .clr :: ps.map .pix

/-- One conversion as the host drives it (R133, R134, R155): present the frame, collect the bytes, check, only then release. A check that
fails aborts the conversion before any output is released. -/
def convertFrame (expected : Nat) (ps : List Rgb) (s : State) : Host.Outcome Release Fault Refusal :=
  match runInput (s.presenting (frameOperations ps)) with
  | .next (_, outs) =>
    match checkSize (bytesOf outs).length expected with
    | .ok () =>
      .next { buffer := bytesOf outs, listing := renderLines (bytesOf outs), preview := unpack s.cfg (bytesOf outs) }
    | .error f => .fault f
  | .fault f => .fault f
  | .refused r => .refused r

/-- Row and column of pixel `i` of a frame `width` pixels wide (R31). -/
def pixelPosition (width i : Nat) : Nat × Nat := (i / width, i % width)

/-- Byte offset of the pixel at column `x`, row `y` in the PackedBuffer of a frame (R37). -/
def byteOffset (width x y : Nat) : Nat := (y * width + x) / 4

end Sys2Proof.Machine
end

