-- ==== Sys2Proof/WellFormed.lean ====
section
/-! DEFINITION. WellFormed.lean: the checks the spec puts on terms: the palette premise (R17) and the
operand ranges of the stimulus notation (R58, U2 of 93_implementation_defined.md). A term of `Instr`
needs no check: each channel is a `u8`, and no `op` value and no operand is illegal (R51, R56, R57). -/

namespace Sys2Proof

/-- R17: the four palette colours are pairwise distinct. -/
abbrev Config.Distinct (cfg : Config) : Prop :=
  ∀ i j : Fin 4, cfg.palRgb i = cfg.palRgb j → i = j

/-- The operands of a stimulus operation are in range: a channel outside 0..255 is an assembly error
(R58), never clamped or wrapped (U2). -/
def StimOp.wellFormed : StimOp → Bool
  | .pix r g b => r ≤ 255 && g ≤ 255 && b ≤ 255
  | .pixf r g b => r ≤ 255 && g ≤ 255 && b ≤ 255
  | .pixHex w => w < 2 ^ 24
  | .pixfHex w => w < 2 ^ 24
  | .nop => true
  | .clr => true
  | .endConversion => true
  | .startConversion => true
  | .colour _ => true

/-- A stimulus line is well-formed when its operation is. -/
def StimLine.wellFormed : StimLine → Bool
  | .one o => o.wellFormed
  | .rep _ o => o.wellFormed

end Sys2Proof
end

