-- ==== Sys2Proof/Machine/Stimulus.lean ====
section
/-! DEFINITION. Machine/Stimulus.lean: the stimulus notation (R58, R59, 30_encoding.md): reading a line of text and assembling it to
operation words. Text is a list of characters. -/

namespace Sys2Proof.Machine

/-- The operation a well-formed stimulus operation stands for (R58, R59). -/
def stimInstr (cfg : Config) : StimOp → Instr
  | .nop => .nop
  | .pix r g b => .pix ⟨BitVec.ofNat 8 r, BitVec.ofNat 8 g, BitVec.ofNat 8 b⟩
  | .pixHex w => .pix (rgbOfWord (BitVec.ofNat 24 w))
  | .clr => .clr
  | .pixf r g b => .pixf ⟨BitVec.ofNat 8 r, BitVec.ofNat 8 g, BitVec.ofNat 8 b⟩
  | .pixfHex w => .pixf (rgbOfWord (BitVec.ofNat 24 w))
  | .endConversion => .clr
  | .startConversion => .clr
  | .colour c => .pix (cfg.rgbOf c)

/-- The operations of one line; an operand out of range is an assembly error (R58). -/
def assembleLine (cfg : Config) (l : StimLine) : Except Refusal (List Instr) :=
  if l.wellFormed then
    match l with
    | .one o => .ok [stimInstr cfg o]
    | .rep n o => .ok (List.replicate n (stimInstr cfg o))
  else .error .channelOutOfRange

/-- A script assembled to operation words, line by line (R58). -/
def assemble (cfg : Config) : List StimLine → Except Refusal (List OpWord)
  | [] => .ok []
  | l :: ls =>
    match assembleLine cfg l, assemble cfg ls with
    | .ok is, .ok ws => .ok (is.map encode ++ ws)
    | .error r, _ => .error r
    | .ok _, .error r => .error r

/-- Put a finished word, if it has any character, in front of the rest. -/
def flushWord (word : List Char) (rest : List (List Char)) : List (List Char) :=
  if word.isEmpty then rest else word :: rest

/-- Words and commas of a line; `word` is the word read so far, and `;` starts a comment (R58). -/
def tokensFrom (word : List Char) : List Char → List (List Char)
  | [] => flushWord word []
  | c :: cs =>
    if c = ';' then flushWord word []
    else if c = ' ' ∨ c = '\t' then flushWord word (tokensFrom [] cs)
    else if c = ',' then flushWord word ([','] :: tokensFrom [] cs)
    else tokensFrom (word ++ [c]) cs

/-- The value of a digit in a base up to 16. -/
def digitValue (base : Nat) (c : Char) : Option Nat :=
  let n := c.toNat
  let v := if 48 ≤ n ∧ n ≤ 57 then n - 48
    else if 65 ≤ n ∧ n ≤ 70 then n - 55
    else if 97 ≤ n ∧ n ≤ 102 then n - 87
    else 16
  if v < base then some v else none

/-- The value of a digit string, after the value `v` of the digits before it. -/
def digitsFrom (base v : Nat) : List Char → Option Nat
  | [] => some v
  | c :: cs =>
    match digitValue base c with
    | some d => digitsFrom base (base * v + d) cs
    | none => none

/-- A number in decimal or, after `0x`, in hexadecimal (R58). -/
def readNumber : List Char → Option Nat
  | [] => none
  | '0' :: 'x' :: c :: cs => digitsFrom 16 0 (c :: cs)
  | cs => digitsFrom 10 0 cs

/-- `#RRGGBB`: six hex digits (R58). -/
def readHexColour : List Char → Option Nat
  | ['#', a, b, c, d, e, f] => digitsFrom 16 0 [a, b, c, d, e, f]
  | _ => none

/-- The operand forms of `pix` and `pixf` (R58). -/
def readPixel (channels : Nat → Nat → Nat → StimOp) (hex : Nat → StimOp) : List (List Char) → Option StimOp
  | [w] => (readHexColour w).map hex
  | [r, [','], g, [','], b] =>
    match readNumber r, readNumber g, readNumber b with
    | some r, some g, some b => some (channels r g b)
    | _, _, _ => none
  | _ => none

/-- One operation of the notation (R58, R59), from its words. -/
def readOperation : List (List Char) → Option StimOp
  | [['n', 'o', 'p']] => some .nop
  | [['c', 'l', 'r']] => some .clr
  | [['e', 'n', 'd']] => some .endConversion
  | [['s', 't', 'a', 'r', 't']] => some .startConversion
  | [['b', 'l', 'a', 'c', 'k']] => some (.colour .black)
  | [['w', 'h', 'i', 't', 'e']] => some (.colour .white)
  | [['y', 'e', 'l', 'l', 'o', 'w']] => some (.colour .yellow)
  | [['r', 'e', 'd']] => some (.colour .red)
  | ['p', 'i', 'x'] :: ws => readPixel .pix .pixHex ws
  | ['p', 'i', 'x', 'f'] :: ws => readPixel .pixf .pixfHex ws
  | _ => none

/-- A line of the notation (R58, R59); `none` for a line with nothing but a comment. -/
def parseLine (line : List Char) : Except Refusal (Option StimLine) :=
  match tokensFrom [] line with
  | [] => .ok none
  | ['r', 'e', 'p'] :: n :: [','] :: ws =>
    match readNumber n, readOperation ws with
    | some n, some o => .ok (some (.rep n o))
    | _, _ => .error .unreadableLine
  | ws =>
    match readOperation ws with
    | some o => .ok (some (.one o))
    | none => .error .unreadableLine

end Sys2Proof.Machine
end

