-- ==== Sys2Proof/Safety.lean ====
section
/-! DEFINITION. Safety.lean: the invariant of the block (R18) and what counts as a safe run (R130). -/

namespace Sys2Proof.Machine

/-- R18: the low `2*(4-cnt)` bits of `acc` are 0. -/
abbrev State.LowPairsClear (s : State) : Prop := s.acc.toNat % 2 ^ (2 * (4 - s.cnt.toNat)) = 0

/-- A step that emitted a byte also showed a code and left an empty group (R19, R92). -/
abbrev State.OutputsAgree (s : State) : Prop :=
  s.out.outByte.isSome = true → s.out.qCode.isSome = true ∧ s.cnt = 0#2 ∧ s.acc = 0x00#8

/-- The invariant of the model: R18, the palette premise R17, and the agreement of the outputs with the state. -/
abbrev State.Inv (s : State) : Prop := s.LowPairsClear ∧ s.cfg.Distinct ∧ s.OutputsAgree

/-- A run is safe when it neither faults nor stops before everything presented has been taken (R130, R160). -/
def RunIsSafe (s : State) : Prop := ∃ t outs, runInput s = .next (t, outs) ∧ t.input = []

end Sys2Proof.Machine
end

