-- ==== Sys2Proof/Certificates/Slice0/Obligations.lean ====
section
/-! DEFINITION. Certificates/Slice0/Obligations.lean: the statements for the provers, from the numbered rules of spec/. A statement about every
state is a statement about every palette, since the open colours stand in the state's configuration record (log entry 1). -/

open Sys2Proof Sys2Proof.Machine

/-! ## The palette and the Quantizer -/

/-- R15: the palette table: entry `k` has code `k`; black and white have the source's colours, yellow and red are the parameters. -/
def Obligations.PaletteTable : Prop :=
  ∀ cfg : Config,
    (∀ k : Fin 4, cfg.palCode k = BitVec.ofNat 2 k.val) ∧
    cfg.palRgb 0 = ⟨0#8, 0#8, 0#8⟩ ∧ cfg.palRgb 1 = ⟨255#8, 255#8, 255#8⟩ ∧
    cfg.palRgb 2 = cfg.yellow ∧ cfg.palRgb 3 = cfg.red

/-- R73: the 9-bit signed difference is the exact integer difference, and the absolute difference has the same square. -/
def Obligations.ChannelDifferenceIsExact : Prop :=
  ∀ c p : Byte,
    (channelDiff c p).toInt = (c.toNat : Int) - (p.toNat : Int) ∧
    -255 ≤ (channelDiff c p).toInt ∧ (channelDiff c p).toInt ≤ 255 ∧
    (absDiff c p).toNat = ((c.toNat : Int) - (p.toNat : Int)).natAbs ∧
    squareAbs (absDiff c p) = squareDiff (channelDiff c p)

/-- R74: squares fit 16 bits, sums fit 18 bits and not 17, the maximum is reached by (0,0,0) against white. -/
def Obligations.DistanceNeverWraps : Prop :=
  (∀ c p : Byte, ((squareDiff (channelDiff c p)).toNat : Int) = ((c.toNat : Int) - (p.toNat : Int)) ^ 2 ∧
    (squareDiff (channelDiff c p)).toNat ≤ 65025) ∧
  (∀ x y : Rgb, (sqDist x y).toNat =
      (squareDiff (channelDiff x.r y.r)).toNat + (squareDiff (channelDiff x.g y.g)).toNat
        + (squareDiff (channelDiff x.b y.b)).toNat ∧
    (sqDist x y).toNat ≤ 195075) ∧
  (∀ cfg : Config, (distTo cfg ⟨0#8, 0#8, 0#8⟩ 1).toNat = 195075) ∧
  65025 < 2 ^ 16 ∧ 195075 < 2 ^ 18 ∧ ¬ 195075 < 2 ^ 17

/-- R72: `sqDist` is the squared Euclidean distance over the integers; it is symmetric and 0 exactly on equal triples. -/
def Obligations.DistanceIsSquaredEuclidean : Prop :=
  ∀ x y : Rgb,
    ((sqDist x y).toNat : Int) = ((x.r.toNat : Int) - (y.r.toNat : Int)) ^ 2
      + ((x.g.toNat : Int) - (y.g.toNat : Int)) ^ 2 + ((x.b.toNat : Int) - (y.b.toNat : Int)) ^ 2 ∧
    sqDist x y = sqDist y x ∧
    (sqDist x y = 0#18 ↔ x = y)

/-- R76: the selected entry is the smallest index of a minimum; entry `k` is selected iff it is strictly nearer than every earlier entry and
at least as near as every later one; after index `n` the scan's `best` is the smallest index of a minimum among `d[0..n]`. -/
def Obligations.NearestIsEarliestMinimum : Prop :=
  (∀ (cfg : Config) (p : Rgb), ∃ m : Fin 4, nearest cfg p = cfg.palCode m ∧
    (∀ k, distTo cfg p m ≤ distTo cfg p k) ∧ ∀ j < m, ¬ ∀ k, distTo cfg p j ≤ distTo cfg p k) ∧
  (∀ (cfg : Config) (p : Rgb) (k : Fin 4), nearest cfg p = cfg.palCode k ↔
    (∀ j < k, distTo cfg p k < distTo cfg p j) ∧ ∀ j, k < j → distTo cfg p k ≤ distTo cfg p j) ∧
  (∀ (d : Fin 4 → DistVal) (n : Fin 4),
    let best := ([(1 : Fin 4), 2, 3].take n.val).foldl (fun best k => if d k < d best then k else best) 0
    best ≤ n ∧ (∀ k ≤ n, d best ≤ d k) ∧ ∀ j < best, d best < d j)

/-- R78: with pairwise distinct colours each exact palette colour gets its own code; the fixed entries by value. (The default open entries by
value are in `DefaultPaletteClosedForm`.) -/
def Obligations.ExactPaletteColourGetsItsCode : Prop :=
  (∀ cfg : Config, cfg.Distinct → ∀ k : Fin 4, nearest cfg (cfg.palRgb k) = cfg.palCode k) ∧
  (∀ cfg : Config, cfg.Distinct → nearest cfg ⟨0#8, 0#8, 0#8⟩ = 0b00#2 ∧ nearest cfg ⟨255#8, 255#8, 255#8⟩ = 0b01#2)

/-- R79: when entry `j` is at the minimum distance and no earlier entry is, whatever later entries tie with it, `j` wins, and the later of two entries at
the same distance is never selected; black and white never tie; the source's probe is not a tie; the
synthetic tie is decided by position and not by colour. -/
def Obligations.EarlierEntryWinsATie : Prop :=
  (∀ (cfg : Config) (p : Rgb) (j : Fin 4), (∀ k, distTo cfg p j ≤ distTo cfg p k) →
    (∀ i < j, distTo cfg p i ≠ distTo cfg p j) → nearest cfg p = cfg.palCode j) ∧
  (∀ (cfg : Config) (p : Rgb) (j k : Fin 4), j < k → distTo cfg p j = distTo cfg p k →
    nearest cfg p ≠ cfg.palCode k) ∧
  (∀ (cfg : Config) (p : Rgb),
    ((distTo cfg p 0).toNat : Int) - ((distTo cfg p 1).toNat : Int)
      = 510 * ((p.r.toNat : Int) + p.g.toNat + p.b.toNat) - 195075 ∧
    distTo cfg p 0 ≠ distTo cfg p 1) ∧
  (∀ cfg : Config, (distTo cfg ⟨128#8, 128#8, 128#8⟩ 0).toNat = 49152 ∧ (distTo cfg ⟨128#8, 128#8, 128#8⟩ 1).toNat = 48387) ∧
  (∀ cfg : Config, cfg = ⟨⟨10#8, 0#8, 0#8⟩, ⟨30#8, 0#8, 0#8⟩⟩ ∨ cfg = ⟨⟨30#8, 0#8, 0#8⟩, ⟨10#8, 0#8, 0#8⟩⟩ →
    (distTo cfg ⟨20#8, 0#8, 0#8⟩ 2).toNat = 100 ∧ (distTo cfg ⟨20#8, 0#8, 0#8⟩ 3).toNat = 100 ∧
    nearest cfg ⟨20#8, 0#8, 0#8⟩ = 0b10#2)

/-- The balanced comparator tree of R80 selects what the scan of R71 selects, for all distances. -/
def Obligations.ComparatorTreeAgrees : Prop := ∀ d : Fin 4 → DistVal, treeBest d = scanBest d

/-- The distance accumulator of R81 selects what the scan of R71 selects, and the channels may be accumulated in any order. -/
def Obligations.DistanceAccumulatorAgrees : Prop :=
  (∀ d : Fin 4 → DistVal, accumulatorBest d = scanBest d) ∧
  (∀ (x y : Rgb) (channels : List (Byte × Byte)), channels.Perm [(x.r, y.r), (x.g, y.g), (x.b, y.b)] →
    distAccumulated channels = sqDist x y)

/-- The closed form of R83 for the default palette, which is R6's stated default and PRESUMED by the spec itself (log entry 2): the linear
differences, the boundaries, the ties at the minimum, pure green and pure magenta, the two open colours themselves. -/
def Obligations.DefaultPaletteClosedForm : Prop :=
  (∀ p : Rgb,
    let d := fun k : Fin 4 => ((distTo Config.default p k).toNat : Int)
    let r := (p.r.toNat : Int)
    let g := (p.g.toNat : Int)
    let b := (p.b.toNat : Int)
    (d 0 - d 1 = 510 * (r + g + b) - 195075 ∧ (d 1 < d 0 ↔ 383 ≤ r + g + b) ∧ d 0 ≠ d 1) ∧
    (d 0 - d 2 = 510 * (r + g) - 130050 ∧ (d 2 < d 0 ↔ 256 ≤ r + g) ∧ (d 0 = d 2 ↔ r + g = 255)) ∧
    (d 0 - d 3 = 510 * r - 65025 ∧ (d 3 < d 0 ↔ 128 ≤ r) ∧ d 0 ≠ d 3) ∧
    (d 1 - d 2 = 65025 - 510 * b ∧ (d 2 < d 1 ↔ b ≤ 127) ∧ d 1 ≠ d 2) ∧
    (d 1 - d 3 = 130050 - 510 * (g + b) ∧ (d 3 < d 1 ↔ g + b ≤ 254) ∧ (d 1 = d 3 ↔ g + b = 255)) ∧
    (d 2 - d 3 = 65025 - 510 * g ∧ (d 3 < d 2 ↔ g ≤ 127) ∧ d 2 ≠ d 3) ∧
    ((d 0 = d 2 ∧ ∀ k, d 0 ≤ d k) ↔ r + g = 255 ∧ r ≤ 127 ∧ b ≤ 127) ∧
    ((d 1 = d 3 ∧ ∀ k, d 1 ≤ d k) ↔ g + b = 255 ∧ 128 ≤ r ∧ g ≤ 127) ∧
    ∀ i j k : Fin 4, i < j → j < k → ¬ (d i = d j ∧ d j = d k ∧ ∀ m, d i ≤ d m)) ∧
  nearest Config.default ⟨0#8, 255#8, 0#8⟩ = 0b00#2 ∧ nearest Config.default ⟨255#8, 0#8, 255#8⟩ = 0b01#2 ∧
  nearest Config.default ⟨255#8, 255#8, 0#8⟩ = 0b10#2 ∧ nearest Config.default ⟨255#8, 0#8, 0#8⟩ = 0b11#2

/-- The whole-space counts of R83 for the default palette (R6's stated default, log entry 2): the inputs of each code, and the ties at the
minimum. -/
def Obligations.DefaultPaletteCounts : Prop :=
  let d := distTo Config.default
  let tie := fun (p : Rgb) (j k : Fin 4) => d p j = d p k ∧ ∀ m, d p j ≤ d p m
  countTriples (fun p => nearest Config.default p = 0b00#2) = 5251072 ∧
  countTriples (fun p => nearest Config.default p = 0b01#2) = 5251072 ∧
  countTriples (fun p => nearest Config.default p = 0b10#2) = 3137536 ∧
  countTriples (fun p => nearest Config.default p = 0b11#2) = 3137536 ∧
  countTriples (fun p => tie p 0 2) = 16384 ∧
  countTriples (fun p => tie p 1 3) = 16384

/-! ## Encodings -/

/-- R51: red is the high byte of the operand word, blue the low byte; every word is a legal operand. -/
def Obligations.OperandWordLayout : Prop :=
  (∀ p : Rgb, (wordOfRgb p).toNat = p.r.toNat * 2 ^ 16 + p.g.toNat * 2 ^ 8 + p.b.toNat ∧ rgbOfWord (wordOfRgb p) = p) ∧
  (∀ w : RgbWord, wordOfRgb (rgbOfWord w) = w) ∧
  wordOfRgb ⟨255#8, 128#8, 0#8⟩ = 0xFF8000#24

/-- R52: the four values of `op` select the four operations, and no value is undefined. -/
def Obligations.OpFieldSelectsTheOperation : Prop :=
  ∀ w : OpWord,
    (decode w = .nop ↔ opField w = 0b00#2) ∧
    (decode w = .pix (rgbOfWord (rgbField w)) ↔ opField w = 0b01#2) ∧
    (decode w = .clr ↔ opField w = 0b10#2) ∧
    (decode w = .pixf (rgbOfWord (rgbField w)) ↔ opField w = 0b11#2)

/-- R53: the operation word as a number, and the match and mask of each row. -/
def Obligations.OperationWordLayout : Prop :=
  (∀ p : Rgb,
    (encode (.pix p)).toNat = 0x1000000 + p.r.toNat * 2 ^ 16 + p.g.toNat * 2 ^ 8 + p.b.toNat ∧
    (encode (.pixf p)).toNat = 0x3000000 + p.r.toNat * 2 ^ 16 + p.g.toNat * 2 ^ 8 + p.b.toNat) ∧
  encode .nop = 0x0000000#26 ∧ encode .clr = 0x2000000#26 ∧
  (∀ (w : OpWord) (i : Instr), w &&& 0x3000000#26 = i.pattern ↔ (decode w).mnemonic = i.mnemonic) ∧
  encode (.pix ⟨255#8, 128#8, 0#8⟩) = 0x1FF8000#26 ∧ encode (.pixf ⟨0#8, 0#8, 0#8⟩) = 0x3000000#26

/-- Decoding the word of any operation gives the operation back, with every operand (R51, R52, R53). -/
def Obligations.DecodeOfEncode : Prop := ∀ i : Instr, decode (encode i) = i

/-- Encoding what a word decodes to gives the word back when it presents a pixel, and its canonical form, `rgb` = 0, otherwise (R52, R57). -/
def Obligations.EncodeOfDecodeIsCanonical : Prop :=
  ∀ w : OpWord, encode (decode w) = if (opField w).getLsbD 0 then w else opWord (opField w) 0#24

/-- R57: no word is illegal, and the `rgb` field of NOP and CLR is don't care: all values of it behave alike. -/
def Obligations.DontCareFieldBehavesAlike : Prop :=
  (∀ w : Nat, w < 2 ^ 26 → ∃ i, decodeNumber w = .ok i) ∧
  (∀ (s : State) (op : BitVec 2) (a b : RgbWord) (rest : List Ports), op = 0b00#2 ∨ op = 0b10#2 →
    step { s with input := ⟨false, op, a⟩ :: rest } = step { s with input := ⟨false, op, b⟩ :: rest }) ∧
  (encode .nop).extractLsb' 0 24 = 0#24 ∧ (encode .clr).extractLsb' 0 24 = 0#24

/-- Operation words of the programs P1 to P3 (95_test_vectors.md section 5) decode to what they are listed as. -/
def Obligations.ListedWordsDecode : Prop :=
  decode 0x2000000#26 = .clr ∧ decode 0x0000000#26 = .nop ∧
  decode 0x1FFFF00#26 = .pix ⟨255#8, 255#8, 0#8⟩ ∧ decode 0x1C81E28#26 = .pix ⟨200#8, 30#8, 40#8⟩ ∧
  decode 0x300FF00#26 = .pixf ⟨0#8, 255#8, 0#8⟩

/-! ## The four operations -/

/-- R91: NOP completes in every state and does nothing; any number of NOPs anywhere leaves every emitted byte and every code unchanged, and the
registers at the end. -/
def Obligations.NopDoesNothing : Prop :=
  (∀ s : State, exec .nop s = .next { s with out := { outByte := none, qCode := none } }) ∧
  (∀ (s : State) (is : List Instr), ∃ t outs t' outs',
    runInput (s.presenting is) = .next (t, outs) ∧
    runInput (s.presenting (is.filter fun i => i ≠ .nop)) = .next (t', outs') ∧
    bytesOf outs = bytesOf outs' ∧ codesOf outs = codesOf outs' ∧ t.cnt = t'.cnt ∧ t.acc = t'.acc)

/-- R92: PIX completes in every state with every operand: the code is shown and placed in pair `3-cnt`; with `cnt` = 3 the byte is emitted and the
group cleared. The shift loses no bit; under R18 the code goes into a zero pair and the other pairs keep what they held. -/
def Obligations.PixPlacesItsCode : Prop :=
  (∀ (s : State) (p : Rgb),
    (s.cnt = 3#2 → exec (.pix p) s = .next { s with
      cnt := 0#2
      acc := 0x00#8
      out := { outByte := some (s.acc ||| (nearest s.cfg p).setWidth 8), qCode := some (nearest s.cfg p) } }) ∧
    (s.cnt ≠ 3#2 → exec (.pix p) s = .next { s with
      cnt := s.cnt + 1#2
      acc := s.acc ||| ((nearest s.cfg p).setWidth 8 <<< (2 * (3 - s.cnt.toNat)))
      out := { outByte := none, qCode := some (nearest s.cfg p) } })) ∧
  (∀ (n : BitVec 2) (c : Code), (c.setWidth 8 <<< pairShift n : Byte).toNat = c.toNat * 2 ^ (2 * (3 - n.toNat))) ∧
  (∀ (s : State) (c : Code), s.LowPairsClear →
    pairOf (placeCode s.cnt s.acc c) (3 - s.cnt.toNat) = c ∧
    ∀ k < 4, k ≠ 3 - s.cnt.toNat → pairOf (placeCode s.cnt s.acc c) k = pairOf s.acc k) ∧
  (∀ s : State, placeCode s.cnt s.acc 0b00#2 = s.acc)

/-- R94: CLR completes in every state: both registers are 0, no output; it changes no register when the group is empty, and it is idempotent. -/
def Obligations.ClrDropsThePartialGroup : Prop :=
  (∀ s : State, exec .clr s = .next { s with cnt := 0#2, acc := 0x00#8, out := { outByte := none, qCode := none } }) ∧
  (∀ s : State, s.LowPairsClear → s.cnt = 0#2 → ∃ t, exec .clr s = .next t ∧ t.cnt = s.cnt ∧ t.acc = s.acc) ∧
  (∀ s : State, ∃ t, exec .clr s = .next t ∧ exec .clr t = .next t)

/-- R93: PIXF completes in every state with every operand: whatever the registers held, the code stands in pair 3 over zeros and `cnt` is 1; the
same new state and code as CLR and then PIX. -/
def Obligations.PixfIsClrThenPix : Prop :=
  (∀ (s : State) (p : Rgb), exec (.pixf p) s = .next { s with
    cnt := 1#2
    acc := (nearest s.cfg p).setWidth 8 <<< 6
    out := { outByte := none, qCode := some (nearest s.cfg p) } }) ∧
  (∀ (s : State) (p : Rgb), ∃ t, exec .clr s = .next t ∧ exec (.pixf p) s = exec (.pix p) t)

/-- R130: no operation raises, in any state, with any operand: every operation, every step with something presented and every whole run completes. -/
def Obligations.EveryOperationCompletes : Prop :=
  (∀ (i : Instr) (s : State), ∃ t, exec i s = .next t) ∧
  (∀ s : State, s.input ≠ [] → ∃ t, step s = .next t) ∧
  (∀ (s : State) (f : Fault), step s ≠ .fault f) ∧
  (∀ s : State, RunIsSafe s) ∧
  (∀ (s t : State) (outs : List Out), runInput s = .next (t, outs) → outs.length = s.input.length)

/-- R19: `q_code` is `some c` exactly in PIX and PIXF steps, `c` the Quantizer's result; `out_byte` is `some v` exactly in a PIX step taken with `cnt`
= 3; in every other step, resets included, they are `none`. -/
def Obligations.OutputsOfAStep : Prop :=
  (∀ (i : Instr) (s t : State), exec i s = .next t →
    (∀ c, t.out.qCode = some c ↔ ∃ p, (i = .pix p ∨ i = .pixf p) ∧ c = nearest s.cfg p) ∧
    (t.out.outValid = true ↔ (∃ p, i = .pix p) ∧ s.cnt = 3#2) ∧
    (t.out.qValid = true ↔ ∃ p, i = .pix p ∨ i = .pixf p)) ∧
  (∀ (s : State) (p : Ports) (rest : List Ports), s.input = p :: rest → p.rst = true →
    ∃ t, step s = .next t ∧ t.out = { outByte := none, qCode := none })

/-- The frame of the four operations: what the host presents and the palette are never changed (R16, R20, R39); NOP changes no register; the registers
and outputs after an operation do not depend on the outputs before it (R14) or on what is presented later (R31). -/
def Obligations.OperationFrame : Prop :=
  (∀ (i : Instr) (s t : State), exec i s = .next t → t.cfg = s.cfg ∧ t.input = s.input) ∧
  (∀ s t : State, exec .nop s = .next t → t.cnt = s.cnt ∧ t.acc = s.acc) ∧
  (∀ (i : Instr) (s : State) (o : Out) (ps : List Ports), ∃ t u, exec i s = .next t ∧
    exec i { s with out := o, input := ps } = .next u ∧ u.cnt = t.cnt ∧ u.acc = t.acc ∧ u.out = t.out)

/-! ## Steps and reset -/

/-- A step takes the first value of the ports and runs the operation it decodes to, in the state with that value taken (R39, R50, R90); with nothing
presented there is no step (R42). That the refusal is the model's answer there is log entry 3. -/
def Obligations.StepRunsThePresentedOperation : Prop :=
  (∀ (s : State) (p : Ports) (rest : List Ports) (i : Instr), s.input = p :: rest → p.rst = false → decode p.word = i →
    step s = exec i { s with input := rest }) ∧
  (∀ (s : State) (i : Instr) (is : List Instr), step (s.presenting (i :: is)) = exec i (s.presenting is)) ∧
  (∀ (s : State) (nbits w : Nat) (i : Instr), decodeTableWord nbits w = some i → step (s.withFetchWord nbits w) = exec i s) ∧
  (∀ s : State, s.input = [] → step s = .refused .noOperation)

/-- R150 and R137(a): an asserted `rst` takes every state element to its reset value, with no output, whatever operation is presented; the effect on the
block is that of CLR; the palette is not touched. -/
def Obligations.ResetOverridesTheOperation : Prop :=
  ∀ (s : State) (op : BitVec 2) (rgb : RgbWord) (rest : List Ports), s.input = ⟨true, op, rgb⟩ :: rest →
    step s = .next { s with
      cnt := 0#2
      acc := 0x00#8
      out := { outByte := none, qCode := none }
      input := rest } ∧
    step s = exec .clr { s with input := rest }

/-- R24: the values after reset, in the initial state and after a reset step in any state; PAL is not reset. -/
def Obligations.ResetValues : Prop :=
  (State.reset.cnt = 0#2 ∧ State.reset.acc = 0x00#8 ∧ State.reset.out.outByte = none ∧ State.reset.out.qCode = none) ∧
  ∀ (s : State) (p : Ports) (rest : List Ports), s.input = p :: rest → p.rst = true →
    ∃ t, step s = .next t ∧ t.cnt = 0#2 ∧ t.acc = 0x00#8 ∧ t.out.outByte = none ∧ t.out.qCode = none ∧
      ∀ k, t.cfg.entry k = s.cfg.entry k

/-- The state after reset meets the invariant. Its palette is R6's stated default (log entry 2). -/
def Obligations.ResetMeetsTheInvariant : Prop := State.reset.Inv

/-- Every step keeps the invariant: R18, the palette premise, and the agreement of the outputs with the registers. -/
def Obligations.StepKeepsTheInvariant : Prop := ∀ s s' : State, s.Inv → step s = .next s' → s'.Inv

/-- R18: in every state a run from reset reaches, the low `2*(4-cnt)` bits of `acc` are 0; there are 85 such pairs, and every one is reached, under
every palette of pairwise distinct colours; the step function is nevertheless total on all bit patterns. -/
def Obligations.ReachableGroupsAreExactlyR18 : Prop :=
  (∀ (cfg : Config) (ps : List Ports) (t : State) (outs : List Out),
    runInput { State.reset with cfg := cfg, input := ps } = .next (t, outs) → t.LowPairsClear) ∧
  ((List.range 4).flatMap fun n => (List.range 256).filter fun a => a % 2 ^ (2 * (4 - n)) = 0).length = 85 ∧
  (∀ (cfg : Config) (n : BitVec 2) (a : Byte), cfg.Distinct → a.toNat % 2 ^ (2 * (4 - n.toNat)) = 0 →
    ∃ is t outs, runInput ({ State.reset with cfg := cfg }.presenting is) = .next (t, outs) ∧ t.cnt = n ∧ t.acc = a) ∧
  (∀ (i : Instr) (s : State), ∃ t, exec i s = .next t)

/-! ## Groups and conversions -/

/-- R95: four PIX from an empty group emit one byte, the concatenation of the four codes, first in bits 7:6; the map from quadruples to bytes is a
bijection. -/
def Obligations.FourPixelsMakeOneByte : Prop :=
  (∀ (s : State) (p0 p1 p2 p3 : Rgb), s.cnt = 0#2 → s.acc = 0x00#8 →
    let c := nearest s.cfg
    ∃ t outs v, runInput (s.presenting [.pix p0, .pix p1, .pix p2, .pix p3]) = .next (t, outs) ∧ bytesOf outs = [v] ∧
      v = ((c p0).setWidth 8 <<< 6) ||| ((c p1).setWidth 8 <<< 4) ||| ((c p2).setWidth 8 <<< 2) ||| (c p3).setWidth 8 ∧
      v = packByte (c p0) (c p1) (c p2) (c p3) ∧
      v.toNat = 64 * (c p0).toNat + 16 * (c p1).toNat + 4 * (c p2).toNat + (c p3).toNat) ∧
  (∀ b : Byte, ∃ c0 c1 c2 c3, packByte c0 c1 c2 c3 = b) ∧
  (∀ c0 c1 c2 c3 e0 e1 e2 e3, packByte c0 c1 c2 c3 = packByte e0 e1 e2 e3 → c0 = e0 ∧ c1 = e1 ∧ c2 = e2 ∧ c3 = e3) ∧
  packByte 0b00#2 0b01#2 0b10#2 0b11#2 = 0x1B#8

/-- R112: from every state, CLR and then one PIX per pixel of `P`, with any number of NOPs anywhere, emits exactly `pack(P)`, shows exactly `codes(P)`, and
ends with `cnt` = n mod 4 and `acc` the codes of the last n mod 4 pixels left-aligned over zeros; the same from an empty group without the CLR, and
with PIXF for the first pixel in place of CLR and PIX. -/
def Obligations.MachineRunsPack : Prop :=
  ∀ (s : State) (ps : List Rgb) (is : List Instr),
    (is.filter fun i => i ≠ .nop) = .clr :: ps.map .pix ∨
    ((is.filter fun i => i ≠ .nop) = ps.map .pix ∧ s.cnt = 0#2 ∧ s.acc = 0x00#8) ∨
    (∃ p0 rest, ps = p0 :: rest ∧ (is.filter fun i => i ≠ .nop) = .pixf p0 :: rest.map .pix) →
    ∃ t outs, runInput (s.presenting is) = .next (t, outs) ∧
      bytesOf outs = pack s.cfg ps ∧ codesOf outs = codes s.cfg ps ∧
      t.cnt.toNat = ps.length % 4 ∧ t.acc = leftAligned (codes s.cfg (trailing ps))

/-- R98: a run of any sequence of operations and resets from an empty group splits at its clears into conversions; each conversion's PackedBuffer is
`pack` of its PixelStream, and at the end `cnt` is n mod 4 for the last one. That what stands before the first clear counts as a conversion too is the
model's reading, log entry 13 (DEDUCED): R98 itself starts a conversion at a clear. -/
def Obligations.EveryConversionIsPacked : Prop :=
  ∀ s : State, s.cnt = 0#2 → s.acc = 0x00#8 →
    ∃ t outs, runInput s = .next (t, outs) ∧
      packedBuffers (s.input.zip outs) = (pixelStreams s.input).map (pack s.cfg) ∧
      codesOf outs = codes s.cfg (pixelStreams s.input).flatten ∧
      ∃ last, (pixelStreams s.input).getLast? = some last ∧ t.cnt.toNat = last.length % 4

/-- R99: after any clear nothing earlier matters: two machines with one palette, presented the same sequence that begins with a clear, have the same
outputs and end with the same registers, whatever their registers held before. -/
def Obligations.AClearForgetsThePast : Prop :=
  ∀ (s u : State) (p : Ports) (rest : List Ports), p.clears = true → s.cfg = u.cfg → s.input = p :: rest → u.input = p :: rest →
    ∃ t v outs, runInput s = .next (t, outs) ∧ runInput u = .next (v, outs) ∧ t.cnt = v.cnt ∧ t.acc = v.acc

/-- R97: without a clear a new frame's pixels go on filling the old frame's trailing group `cs`: the bytes are those of the old codes followed by the new
ones, so every later group is shifted. -/
def Obligations.WithoutAClearGroupsAreShifted : Prop :=
  ∀ (s : State) (cs : List Code) (ps : List Rgb), cs.length = s.cnt.toNat → s.acc = leftAligned cs →
    ∃ t outs, runInput (s.presenting (ps.map .pix)) = .next (t, outs) ∧
      bytesOf outs = packCodes (cs ++ codes s.cfg ps) ∧ t.cnt.toNat = (cs.length + ps.length) % 4

/-- R33: pixel `i` of a conversion contributes to byte `i div 4`, in pair `3 - (i mod 4)`; byte `j` is emitted by the step that consumes pixel `4j+3`; `n`
pixels emit `floor(n/4)` bytes. -/
def Obligations.PixelPositionInTheOutput : Prop :=
  ∀ (s : State) (ps : List Rgb), s.cnt = 0#2 → s.acc = 0x00#8 →
    ∃ t outs, runInput (s.presenting (ps.map .pix)) = .next (t, outs) ∧
      (bytesOf outs).length = ps.length / 4 ∧
      (∀ (i : Nat) (o : Out), outs[i]? = some o → (o.outByte.isSome = true ↔ i % 4 = 3)) ∧
      (∀ (j : Nat) (o : Out), outs[4 * j + 3]? = some o → o.outByte = (bytesOf outs)[j]?) ∧
      (∀ (i : Nat) (p : Rgb), i < 4 * (ps.length / 4) → ps[i]? = some p →
        ∃ v, (bytesOf outs)[i / 4]? = some v ∧ pairOf v (3 - i % 4) = nearest s.cfg p)

/-- R96: the shift-register Packer gives exactly the outputs of the machine, step by step, from a clear on and whatever the register held. -/
def Obligations.ShiftRegisterAgrees : Prop :=
  ∀ (s : State) (sr : Byte) (is : List Instr), s.cnt = 0#2 → s.acc = 0x00#8 →
    ∃ t outs, runInput (s.presenting is) = .next (t, outs) ∧ ShiftPacker.outputs s.cfg ⟨0#2, sr⟩ is = outs

/-! ## Reference functions and the host -/

/-- R111: `pack(P)` has `floor(n/4)` bytes, byte `j` the concatenation of the codes of pixels `4j .. 4j+3`; the empty stream gives none. -/
def Obligations.PackByIndex : Prop :=
  ∀ (cfg : Config) (ps : List Rgb),
    (pack cfg ps).length = ps.length / 4 ∧ pack cfg [] = [] ∧
    ∀ (j : Nat) (p0 p1 p2 p3 : Rgb),
      ps[4 * j]? = some p0 → ps[4 * j + 1]? = some p1 → ps[4 * j + 2]? = some p2 → ps[4 * j + 3]? = some p3 →
      (pack cfg ps)[j]? = some (packByte (nearest cfg p0) (nearest cfg p1) (nearest cfg p2) (nearest cfg p3))

/-- R113: locality at multiples of 4, constant streams, and the length for a count divisible by 4. -/
def Obligations.PackIsLocal : Prop :=
  (∀ (cfg : Config) (ps qs : List Rgb), 4 ∣ ps.length → pack cfg (ps ++ qs) = pack cfg ps ++ pack cfg qs) ∧
  (∀ (cfg : Config) (ps : List Rgb) (c : Code), (∀ p ∈ ps, nearest cfg p = c) →
    ∀ v ∈ pack cfg ps, v = 0x55#8 * c.setWidth 8) ∧
  (∀ (cfg : Config) (ps : List Rgb), 4 ∣ ps.length → 4 * (pack cfg ps).length = ps.length) ∧
  (∀ (cfg : Config) (ps : List Rgb), ps.length = 384000 → (pack cfg ps).length = 96000)

/-- R110: with pairwise distinct colours `nearest` gives each palette colour its code back, so quantizing twice is quantizing once. -/
def Obligations.QuantizeTwiceIsOnce : Prop :=
  ∀ cfg : Config, cfg.Distinct →
    (∀ c : Code, nearest cfg (paletteColorOf cfg c) = c) ∧
    ∀ ps : List Rgb, codes cfg (quantize cfg ps) = codes cfg ps ∧ quantize cfg (quantize cfg ps) = quantize cfg ps

/-- R114: `unpack(B)` has four pixels a byte, element `4j+i` the palette colour of pair `3-i` of byte `j`; a mismatched shape is refused (U11). -/
def Obligations.UnpackByIndex : Prop :=
  ∀ (cfg : Config) (bs : List Byte),
    (unpack cfg bs).length = 4 * bs.length ∧
    (∀ (j i : Nat) (v : Byte), bs[j]? = some v → i ≤ 3 → (unpack cfg bs)[4 * j + i]? = some (paletteColorOf cfg (pairOf v (3 - i)))) ∧
    (∀ width height : Nat, bs.length * 4 = width * height →
      ∃ rows, unpackRows cfg bs width height = .ok rows ∧ rows.length = height ∧ (∀ row ∈ rows, row.length = width) ∧
        rows.flatten = unpack cfg bs) ∧
    (∀ width height : Nat, bs.length * 4 ≠ width * height → unpackRows cfg bs width height = .error .shapeMismatch)

/-- R115: unpacking what was packed gives the quantized stream, up to the dropped trailing group; both written forms of the law; and packing what was
unpacked gives the bytes back, under pairwise distinct colours. -/
def Obligations.UnpackOfPackIsQuantize : Prop :=
  (∀ (cfg : Config) (ps : List Rgb), 4 ∣ ps.length → unpack cfg (pack cfg ps) = quantize cfg ps) ∧
  (∀ (cfg : Config) (ps : List Rgb), cfg.Distinct → 4 ∣ ps.length →
    unpack cfg (pack cfg (quantize cfg ps)) = quantize cfg ps) ∧
  (∀ (cfg : Config) (ps : List Rgb), unpack cfg (pack cfg ps) = (quantize cfg ps).take (4 * (ps.length / 4))) ∧
  (∀ (cfg : Config) (bs : List Byte), cfg.Distinct → pack cfg (unpack cfg bs) = bs)

/-- Chunks given to separate instances (R43): when every chunk but possibly the last has a length that is a multiple of 4, the outputs in chunk order are the
single instance's. -/
def Obligations.AlignedChunksPackAlike : Prop :=
  ∀ (cfg : Config) (chunks : List (List Rgb)), (∀ c ∈ chunks.dropLast, 4 ∣ c.length) →
    packChunks cfg chunks = pack cfg chunks.flatten

/-- R133: the host compares the number of emitted bytes with the expected count and raises `SizeMismatch` with both numbers when they differ; otherwise it
releases the buffer; the reference frame passes; the byte count is `floor(n/4)`. -/
def Obligations.HostChecksTheByteCount : Prop :=
  (∀ (s : State) (ps : List Rgb) (expected : Nat), ps.length / 4 ≠ expected →
    convertFrame expected ps s = .fault (.sizeMismatch (ps.length / 4) expected)) ∧
  (∀ (s : State) (ps : List Rgb) (expected : Nat), ps.length / 4 = expected →
    ∃ r, convertFrame expected ps s = .next r ∧ r.buffer = pack s.cfg ps) ∧
  (∀ (s : State) (ps : List Rgb), ps.length = Config.frameWidth * Config.frameHeight →
    ∃ r, convertFrame Config.expectedBytes ps s = .next r ∧ r.buffer.length = 96000)

/-- The frame geometry of R31 and R37, host side: with `W` = 800 row `y` occupies byte offsets 200y .. 200y+199, and the buffer is 96000 bytes. -/
def Obligations.FrameGeometry : Prop :=
  Config.expectedBytes = 96000 ∧
  (∀ x y : Nat, x < 800 → 200 * y ≤ byteOffset 800 x y ∧ byteOffset 800 x y ≤ 200 * y + 199) ∧
  (∀ y j : Nat, 200 * y ≤ j → j ≤ 200 * y + 199 → ∃ x < 800, byteOffset 800 x y = j) ∧
  (∀ width i : Nat, 0 < width → (pixelPosition width i).1 * width + (pixelPosition width i).2 = i ∧ (pixelPosition width i).2 < width)

/-- The Emitter's listing (R116), as far as the source goes: one token a byte in order, every line of 12 but perhaps the last, 8000 lines for 96000 bytes. That the LAST token keeps its comma and space is the model's choice, log entry 14
(DESIGN CHOICE): the source does not tell (R116, N11). -/
def Obligations.ListingLines : Prop :=
  ∀ bs : List Byte,
    (renderLines bs).flatten = bs.map renderToken ∧
    (∀ line ∈ (renderLines bs).dropLast, line.length = 12) ∧
    (bs.length = 96000 → (renderLines bs).length = 8000 ∧ ∀ line ∈ renderLines bs, line.length = 12) ∧
    renderToken 0x1B#8 = ['0', 'x', '1', 'B', ',', ' ']

/-- R58: the operation word each form of the notation stands for, and the assembly error for a channel outside 0..255. -/
def Obligations.StimulusWords : Prop :=
  ∀ cfg : Config,
    (∃ w, assemble cfg [.one .nop] = .ok [w] ∧ w.toNat = 0x0000000) ∧
    (∃ w, assemble cfg [.one .clr] = .ok [w] ∧ w.toNat = 0x2000000) ∧
    (∀ r g b : Nat, r ≤ 255 → g ≤ 255 → b ≤ 255 →
      (∃ w, assemble cfg [.one (.pix r g b)] = .ok [w] ∧ w.toNat = 0x1000000 + (r <<< 16) + (g <<< 8) + b) ∧
      (∃ w, assemble cfg [.one (.pixf r g b)] = .ok [w] ∧ w.toNat = 0x3000000 + ((r <<< 16) + (g <<< 8) + b))) ∧
    (∀ v : Nat, v < 2 ^ 24 →
      (∃ w, assemble cfg [.one (.pixHex v)] = .ok [w] ∧ w.toNat = 0x1000000 + v) ∧
      (∃ w, assemble cfg [.one (.pixfHex v)] = .ok [w] ∧ w.toNat = 0x3000000 + v)) ∧
    (∀ r g b : Nat, 255 < r ∨ 255 < g ∨ 255 < b →
      assemble cfg [.one (.pix r g b)] = .error .channelOutOfRange ∧
      assemble cfg [.one (.pixf r g b)] = .error .channelOutOfRange)

/-- The pseudo-operations and their expansions (R59), for operations whose operands are in range. The last clause says that a repeated operation out of
range is an assembly error: for n ≥ 1 that is R58, and for n = 0 it is the model's choice, log entry 9 (DESIGN CHOICE), since R59 writes the
operation 0 times. -/
def Obligations.PseudoOperations : Prop :=
  ∀ cfg : Config,
    assemble cfg [.one .endConversion] = assemble cfg [.one .clr] ∧
    assemble cfg [.one .startConversion] = assemble cfg [.one .clr] ∧
    (∀ k : Fin 4, assemble cfg [.one (.colour (Colour.ofIndex k))] = .ok [encode (.pix (cfg.palRgb k))]) ∧
    (∀ (n : Nat) (o : StimOp), o.wellFormed = true →
      assemble cfg [.rep n o] = assemble cfg (List.replicate n (.one o))) ∧
    (∀ (n : Nat) (o : StimOp), o.wellFormed = false → assemble cfg [.rep n o] = .error .channelOutOfRange)
end

