-- ==== Sys2Proof/Laws/State.lean ====
section
/-! SUPPORT. Laws/State.lean: one lemma per field per update of State, so that no later proof unfolds a record update. -/

namespace Sys2Proof.Machine

variable (s : State) (c : Code) (v : Byte) (n : BitVec 2) (a : Byte)

@[simp] theorem silence_cnt : s.silence.cnt = s.cnt := rfl
@[simp] theorem silence_acc : s.silence.acc = s.acc := rfl
@[simp] theorem silence_out : s.silence.out = Out.silent := rfl
@[simp] theorem silence_input : s.silence.input = s.input := rfl
@[simp] theorem silence_cfg : s.silence.cfg = s.cfg := rfl

@[simp] theorem showCode_cnt : (s.showCode c).cnt = s.cnt := rfl
@[simp] theorem showCode_acc : (s.showCode c).acc = s.acc := rfl
@[simp] theorem showCode_qCode : (s.showCode c).out.qCode = some c := rfl
@[simp] theorem showCode_outByte : (s.showCode c).out.outByte = s.out.outByte := rfl
@[simp] theorem showCode_input : (s.showCode c).input = s.input := rfl
@[simp] theorem showCode_cfg : (s.showCode c).cfg = s.cfg := rfl

@[simp] theorem emit_cnt : (s.emit v).cnt = s.cnt := rfl
@[simp] theorem emit_acc : (s.emit v).acc = s.acc := rfl
@[simp] theorem emit_qCode : (s.emit v).out.qCode = s.out.qCode := rfl
@[simp] theorem emit_outByte : (s.emit v).out.outByte = some v := rfl
@[simp] theorem emit_input : (s.emit v).input = s.input := rfl
@[simp] theorem emit_cfg : (s.emit v).cfg = s.cfg := rfl

@[simp] theorem setGroup_cnt : (s.setGroup n a).cnt = n := rfl
@[simp] theorem setGroup_acc : (s.setGroup n a).acc = a := rfl
@[simp] theorem setGroup_out : (s.setGroup n a).out = s.out := rfl
@[simp] theorem setGroup_input : (s.setGroup n a).input = s.input := rfl
@[simp] theorem setGroup_cfg : (s.setGroup n a).cfg = s.cfg := rfl

@[simp] theorem clearGroup_cnt : s.clearGroup.cnt = 0#2 := rfl
@[simp] theorem clearGroup_acc : s.clearGroup.acc = 0#8 := rfl
@[simp] theorem clearGroup_out : s.clearGroup.out = s.out := rfl
@[simp] theorem clearGroup_input : s.clearGroup.input = s.input := rfl
@[simp] theorem clearGroup_cfg : s.clearGroup.cfg = s.cfg := rfl

@[simp] theorem applyReset_cnt : s.applyReset.cnt = 0#2 := rfl
@[simp] theorem applyReset_acc : s.applyReset.acc = 0#8 := rfl
@[simp] theorem applyReset_out : s.applyReset.out = Out.silent := rfl
@[simp] theorem applyReset_input : s.applyReset.input = s.input := rfl
@[simp] theorem applyReset_cfg : s.applyReset.cfg = s.cfg := rfl

@[simp] theorem silent_outByte : Out.silent.outByte = none := rfl
@[simp] theorem silent_qCode : Out.silent.qCode = none := rfl

/-- Two states with equal fields are equal. -/
theorem State.eq_of_fields {s t : State} (h1 : s.cnt = t.cnt) (h2 : s.acc = t.acc) (h3 : s.out.outByte = t.out.outByte)
    (h4 : s.out.qCode = t.out.qCode) (h5 : s.input = t.input) (h6 : s.cfg = t.cfg) : s = t := by
  obtain ⟨_, _, ⟨_, _⟩, _, _⟩ := s
  obtain ⟨_, _, ⟨_, _⟩, _, _⟩ := t
  simp_all

end Sys2Proof.Machine
end

