-- ==== Sys2Proof/Laws/Ops.lean ====
section
/-! SUPPORT. Laws/Ops.lean: one lemma per shared operation and per meaning that says everything it can do; later proofs cite these and do
not unfold. -/

namespace Sys2Proof.Machine

/-- The Packer's move when the group is complete (R92). -/
theorem pushCode_full {s : State} (h : s.cnt = 3#2) (c : Code) :
    s.pushCode c = (s.emit (placeCode s.cnt s.acc c)).clearGroup := if_pos h

/-- The Packer's move when the group is not complete (R92). -/
theorem pushCode_part {s : State} (h : s.cnt ≠ 3#2) (c : Code) :
    s.pushCode c = s.setGroup (s.cnt + 1#2) (placeCode s.cnt s.acc c) := if_neg h

@[simp] theorem pushCode_input (s : State) (c : Code) : (s.pushCode c).input = s.input := by
  unfold State.pushCode; split <;> rfl

@[simp] theorem pushCode_cfg (s : State) (c : Code) : (s.pushCode c).cfg = s.cfg := by
  unfold State.pushCode; split <;> rfl

@[simp] theorem pushCode_qCode (s : State) (c : Code) : (s.pushCode c).out.qCode = s.out.qCode := by
  unfold State.pushCode; split <;> rfl

/-- The next state of an operation, which always exists (R130). -/
def after : Instr → State → State
  | .nop, s => s.silence
  | .pix p, s => (s.silence.showCode (nearest s.cfg p)).pushCode (nearest s.cfg p)
  | .clr, s => s.silence.clearGroup
  | .pixf p, s => (s.silence.showCode (nearest s.cfg p)).setGroup 1#2 ((nearest s.cfg p).setWidth 8 <<< 6)

theorem exec_eq_after (i : Instr) (s : State) : exec i s = .next (after i s) := by cases i <;> rfl

@[simp] theorem after_input (i : Instr) (s : State) : (after i s).input = s.input := by cases i <;> simp [after]

@[simp] theorem after_cfg (i : Instr) (s : State) : (after i s).cfg = s.cfg := by cases i <;> simp [after]

end Sys2Proof.Machine
end

