-- ==== Sys2Proof/Laws/Words.lean ====
section
/-! SUPPORT. Laws/Words.lean: the fields of an operation word and of an operand word, bit by bit. -/

namespace Sys2Proof

theorem getLsbD_opWord (op : BitVec 2) (w : RgbWord) (k : Nat) :
    (opWord op w).getLsbD k = if k < 24 then w.getLsbD k else op.getLsbD (k - 24) := by
  have := BitVec.getLsbD_append (x := op) (y := w) (i := k)
  rw [show opWord op w = (op ++ w : BitVec (2 + 24)) from rfl, this]

theorem getLsbD_wordOfRgb (p : Rgb) (k : Nat) :
    (wordOfRgb p).getLsbD k =
      if k < 8 then p.b.getLsbD k else if k < 16 then p.g.getLsbD (k - 8) else p.r.getLsbD (k - 16) := by
  rw [show wordOfRgb p = (p.r ++ p.g ++ p.b : BitVec (8 + 8 + 8)) from rfl, BitVec.getLsbD_append, BitVec.getLsbD_append]
  by_cases h : k < 8
  · simp [h]
  · by_cases h' : k < 16
    · have : k - 8 < 8 := by omega
      simp [h, h', this]
    · have : ¬ k - 8 < 8 := by omega
      simp [h, h', this, show k - 8 - 8 = k - 16 by omega]

@[simp] theorem opField_opWord (op : BitVec 2) (w : RgbWord) : opField (opWord op w) = op := by
  apply BitVec.eq_of_getLsbD_eq
  intro k hk
  simp only [opField, BitVec.getLsbD_extractLsb', getLsbD_opWord]
  simp [hk]

@[simp] theorem rgbField_opWord (op : BitVec 2) (w : RgbWord) : rgbField (opWord op w) = w := by
  apply BitVec.eq_of_getLsbD_eq
  intro k hk
  simp only [rgbField, BitVec.getLsbD_extractLsb', getLsbD_opWord]
  simp [hk]

/-- An operation word is its two fields. -/
theorem opWord_fields (w : OpWord) : opWord (opField w) (rgbField w) = w := by
  apply BitVec.eq_of_getLsbD_eq
  intro k hk
  simp only [getLsbD_opWord, opField, rgbField, BitVec.getLsbD_extractLsb']
  by_cases h : k < 24
  · simp [h]
  · have h2 : k - 24 < 2 := by omega
    simp [h, h2, show 24 + (k - 24) = k by omega]

theorem getLsbD_opMask (k : Nat) (hk : k < 26) : opMask.getLsbD k = decide (24 ≤ k) := by
  have : ∀ k : Fin 26, opMask.getLsbD k.val = decide (24 ≤ k.val) := by decide
  exact this ⟨k, hk⟩

/-- The mask keeps `op` and clears the operand (R53). -/
theorem opWord_and_mask (op : BitVec 2) (w : RgbWord) : opWord op w &&& opMask = opWord op 0#24 := by
  apply BitVec.eq_of_getLsbD_eq
  intro k hk
  rw [BitVec.getLsbD_and, getLsbD_opMask k hk, getLsbD_opWord, getLsbD_opWord]
  by_cases h : k < 24
  · simp [h]
  · simp [h, show 24 ≤ k by omega]

end Sys2Proof
end

