-- ==== Sys2Proof/Laws/PerInstr.lean ====
section
/-! SUPPORT. Laws/PerInstr.lean: what is said of each operation as syntax. -/

namespace Sys2Proof.Laws.Opw

/-- The operation word of every operation carries its row's match value under the mask that selects `op` (R53). -/
def Statement (i : Instr) : Prop := encode i &&& opMask = i.pattern

theorem nop : Statement .nop := by unfold Statement; decide

theorem pix (p : Rgb) : Statement (.pix p) := Sys2Proof.opWord_and_mask 0b01#2 (wordOfRgb p)

theorem clr : Statement .clr := by unfold Statement; decide

theorem pixf (p : Rgb) : Statement (.pixf p) := Sys2Proof.opWord_and_mask 0b11#2 (wordOfRgb p)

end Sys2Proof.Laws.Opw
end

