-- ==== Sys2Proof/Laws/Quantizer.lean ====
section
/-! SUPPORT. Laws/Quantizer.lean: the Quantizer's palette reads, so that later proofs do not unfold them. -/

namespace Sys2Proof.Machine

/-- Different entries have different codes. -/
theorem palCode_inj (cfg : Config) {i j : Fin 4} : cfg.palCode i = cfg.palCode j ↔ i = j := by
  constructor
  · intro h
    have codes_differ : ∀ i j : Fin 4, (Colour.ofIndex i).code = (Colour.ofIndex j).code → i = j := by decide
    exact codes_differ i j h
  · rintro rfl
    rfl

/-- Which entry `nearest` selects is which code it answers. -/
theorem nearest_eq_palCode (cfg : Config) (p : Rgb) (k : Fin 4) :
    nearest cfg p = cfg.palCode k ↔ scanBest (distTo cfg p) = k := palCode_inj cfg

theorem distTo_black (cfg : Config) (p : Rgb) : distTo cfg p 0 = sqDist p ⟨0#8, 0#8, 0#8⟩ := rfl

theorem distTo_white (cfg : Config) (p : Rgb) : distTo cfg p 1 = sqDist p ⟨255#8, 255#8, 255#8⟩ := rfl

theorem distTo_yellow (cfg : Config) (p : Rgb) : distTo cfg p 2 = sqDist p cfg.yellow := rfl

theorem distTo_red (cfg : Config) (p : Rgb) : distTo cfg p 3 = sqDist p cfg.red := rfl

end Sys2Proof.Machine
end

