-- ==== Sys2Proof/Laws/Run.lean ====
section
/-! SUPPORT. Laws/Run.lean: what a step can do, said once, and the run of everything presented as a plain recursion over it. -/

namespace Sys2Proof.Machine

/-- The next state once the value `p` of the ports has been taken from in front of `rest` (R50, R137). -/
def afterPorts (p : Ports) (rest : List Ports) (s : State) : State :=
  match p.operation with
  | none => State.applyReset { s with input := rest }
  | some i => after i { s with input := rest }

theorem step_of_input {s : State} {p : Ports} {rest : List Ports} (h : s.input = p :: rest) :
    step s = .next (afterPorts p rest s) := by
  unfold step State.takePorts afterPorts
  rw [h]
  dsimp only
  cases p.operation with
  | none => rfl
  | some i => exact exec_eq_after i _

theorem step_of_no_input {s : State} (h : s.input = []) : step s = .refused .noOperation := by
  unfold step State.takePorts
  rw [h]

@[simp] theorem afterPorts_input (p : Ports) (rest : List Ports) (s : State) : (afterPorts p rest s).input = rest := by
  unfold afterPorts
  split <;> simp

@[simp] theorem afterPorts_cfg (p : Ports) (rest : List Ports) (s : State) : (afterPorts p rest s).cfg = s.cfg := by
  unfold afterPorts
  split <;> simp

/-- Everything a step that answers a next state can have done. -/
theorem step_next_cases {s s' : State} (h : step s = .next s') :
    ∃ p rest, s.input = p :: rest ∧ s' = afterPorts p rest s := by
  match hi : s.input with
  | [] => rw [step_of_no_input hi] at h; cases h
  | p :: rest =>
    rw [step_of_input hi] at h
    cases h
    exact ⟨p, rest, rfl, rfl⟩

/-- The final state and the outputs of running the values `ps` of the ports. -/
def runPorts : List Ports → State → State × List Out
  | [], s => (s, [])
  | p :: ps, s =>
    ((runPorts ps (afterPorts p ps s)).1, (afterPorts p ps s).out :: (runPorts ps (afterPorts p ps s)).2)

theorem runSteps_eq_runPorts (ps : List Ports) (s : State) (h : s.input = ps) :
    runSteps ps.length s = .next (runPorts ps s) := by
  induction ps generalizing s with
  | nil => rfl
  | cons p ps ih =>
    simp only [List.length_cons, runSteps, step_of_input h, ih (afterPorts p ps s) (afterPorts_input p ps s), runPorts]

/-- A run of everything presented always completes (R130, R160). -/
theorem runInput_eq_runPorts (s : State) : runInput s = .next (runPorts s.input s) := runSteps_eq_runPorts _ s rfl

theorem runPorts_outs_length (ps : List Ports) (s : State) : (runPorts ps s).2.length = ps.length := by
  induction ps generalizing s with
  | nil => rfl
  | cons p ps ih => simp [runPorts, ih]

@[simp] theorem bytesOf_cons (o : Out) (outs : List Out) : bytesOf (o :: outs) = o.outByte.toList ++ bytesOf outs := by
  obtain ⟨_ | b, q⟩ := o <;> rfl

@[simp] theorem codesOf_cons (o : Out) (outs : List Out) : codesOf (o :: outs) = o.qCode.toList ++ codesOf outs := by
  obtain ⟨b, _ | q⟩ := o <;> rfl

@[simp] theorem bytesOf_nil : bytesOf [] = [] := rfl

@[simp] theorem codesOf_nil : codesOf [] = [] := rfl

/-- A split sequence always has a first list. -/
theorem splitAtClears_first {β α : Type} (clears : β → Bool) (item : β → Option α) (es : List β) :
    ∃ l ls, splitAtClears clears item es = l :: ls := by
  cases es with
  | nil => exact ⟨[], [], rfl⟩
  | cons e es =>
    simp only [splitAtClears]
    split
    · exact ⟨_, _, rfl⟩
    · cases splitAtClears clears item es <;> exact ⟨_, _, rfl⟩

/-- The split of a sequence from the split of its tail. -/
theorem splitAtClears_cons {β α : Type} {clears : β → Bool} {item : β → Option α} {es : List β} {l : List α} {ls : List (List α)}
    (h : splitAtClears clears item es = l :: ls) (e : β) :
    splitAtClears clears item (e :: es) =
      if clears e then [] :: ((item e).toList ++ l) :: ls else ((item e).toList ++ l) :: ls := by
  simp only [splitAtClears, h, consHead]

/-- What stands at the ports for an operation in canonical form. -/
theorem Ports.ofInstr_word (i : Instr) : (Ports.ofInstr i).word = encode i := opWord_fields (encode i)

end Sys2Proof.Machine
end

