-- ==== Sys2Proof/Tests/Slice0.lean ====
section
/-! SUPPORT. Tests/Slice0.lean: small tests, each expected result taken from spec/95_test_vectors.md or worked out by hand from the rule named, and a
witness for the hypotheses of every statement that has some. -/

namespace Sys2Proof.Tests

open Sys2Proof Sys2Proof.Machine

/-- A block in state `(cnt, acc)` with the default palette. -/
def block (cnt : BitVec 2) (acc : Byte) (input : List Ports := []) : State :=
  { cnt := cnt, acc := acc, out := Out.silent, input := input, cfg := Config.default }

/-- `(cnt, acc, out_byte, q_code)` after an outcome. -/
def seen : Host.Outcome State Fault Refusal → Option (BitVec 2 × Byte × Option Byte × Option Code)
  | .next t => some (t.cnt, t.acc, t.out.outByte, t.out.qCode)
  | _ => none

def yellow : Rgb := ⟨255#8, 255#8, 0#8⟩
def red : Rgb := ⟨255#8, 0#8, 0#8⟩
def white : Rgb := ⟨255#8, 255#8, 255#8⟩
def black : Rgb := ⟨0#8, 0#8, 0#8⟩

/-- The synthetic palette of S4. -/
def synthetic : Config := ⟨⟨10#8, 0#8, 0#8⟩, ⟨30#8, 0#8, 0#8⟩⟩

/-! ## WellFormed smoke: each check refuses an ill-formed term -/

theorem test_ill_formed_channels :
    (StimOp.pix 256 0 0).wellFormed = false ∧ (StimOp.pix 0 256 0).wellFormed = false ∧
    (StimOp.pix 0 0 256).wellFormed = false ∧ (StimOp.pixf 256 0 0).wellFormed = false ∧
    (StimOp.pixf 0 256 0).wellFormed = false ∧ (StimOp.pixf 0 0 256).wellFormed = false := by decide

theorem test_ill_formed_hex :
    (StimOp.pixHex 0x1000000).wellFormed = false ∧ (StimOp.pixfHex 0x1000000).wellFormed = false ∧
    (StimLine.rep 2 (.pix 0 0 256)).wellFormed = false ∧ (StimLine.one (.pix 255 255 255)).wellFormed = true := by decide

/-- R17: a palette with two equal colours is refused, the defaults are not. -/
theorem test_palette_distinct :
    ¬ Config.Distinct ⟨black, red⟩ ∧ ¬ Config.Distinct ⟨red, red⟩ ∧ Config.default.Distinct ∧ synthetic.Distinct := by decide

/-! ## Decoding: words written out from R53, field by field -/

theorem test_decode_nop : decode 0b00_00000000_00000000_00000000#26 = .nop ∧ decode 0x0FFFFFF#26 = .nop := by decide
theorem test_decode_pix : decode 0b01_11001000_00011110_00101000#26 = .pix ⟨200#8, 30#8, 40#8⟩ := by decide
theorem test_decode_clr : decode 0b10_00000000_00000000_00000000#26 = .clr ∧ decode 0x2123456#26 = .clr := by decide
theorem test_decode_pixf : decode 0b11_00000000_11111111_00000000#26 = .pixf ⟨0#8, 255#8, 0#8⟩ := by decide
theorem test_encode_words : encode (.pix ⟨255#8, 128#8, 0#8⟩) = 0x1FF8000#26 ∧ encode (.pixf black) = 0x3000000#26 := by decide

theorem test_table_word :
    decodeTableWord 32 0x1FF8000 = some (.pix ⟨255#8, 128#8, 0#8⟩) ∧ decodeTableWord 32 0x4000000 = none ∧
    decodeNumber 0x4000000 = .error .widerThanOpw := by decide

/-! ## The Quantizer: vectors Q5, Q7, Q8, Q14, Q16, Q27 and S4 -/

theorem test_nearest_probe : nearest Config.default ⟨128#8, 128#8, 128#8⟩ = 0b01#2 := by decide
theorem test_nearest_ties :
    nearest Config.default ⟨0#8, 255#8, 0#8⟩ = 0b00#2 ∧ nearest Config.default ⟨255#8, 0#8, 255#8⟩ = 0b01#2 := by decide
theorem test_nearest_no_wrap : nearest Config.default ⟨0#8, 0#8, 255#8⟩ = 0b00#2 := by decide
theorem test_nearest_boundaries :
    nearest Config.default ⟨255#8, 128#8, 0#8⟩ = 0b10#2 ∧ nearest Config.default ⟨255#8, 127#8, 127#8⟩ = 0b11#2 := by decide
theorem test_nearest_synthetic : nearest synthetic ⟨20#8, 0#8, 0#8⟩ = 0b10#2 := by decide
theorem test_distances_Q27 :
    (List.finRange 4).map (fun k => (distTo Config.default ⟨255#8, 127#8, 127#8⟩ k).toNat) = [97283, 32768, 32513, 32258] := by decide

/-! ## The four operations: vectors K7, K17, K21, K24, K28, K30, K32 to K34 -/

theorem test_pix_places : seen (exec (.pix yellow) (block 1 0x80)) = some (2, 0xA0, none, some 0b10) := by decide
theorem test_pix_emits : seen (exec (.pix red) (block 3 0x18)) = some (0, 0x00, some 0x1B, some 0b11) := by decide
theorem test_nop_holds : seen (exec .nop (block 2 0x60)) = some (2, 0x60, none, none) := by decide
theorem test_clr_drops : seen (exec .clr (block 1 0xC0)) = some (0, 0x00, none, none) := by decide
theorem test_pixf_white : seen (exec (.pixf white) (block 2 0xF0)) = some (1, 0x40, none, some 0b01) := by decide
theorem test_pixf_red : seen (exec (.pixf red) (block 3 0xFC)) = some (1, 0xC0, none, some 0b11) := by decide
theorem test_reset_overrides :
    seen (step (block 3 0xFC [{ Ports.ofInstr (.pix red) with rst := true }])) = some (0, 0x00, none, none) := by decide
theorem test_dont_care :
    seen (step (block 1 0x40 [Ports.ofWord 0x0FFFFFF])) = some (1, 0x40, none, none) ∧
    seen (step (block 1 0x40 [Ports.ofWord 0x2123456])) = some (0, 0x00, none, none) := by decide
theorem test_fetch_word : seen (step (State.reset.withFetchWord 32 0x1FF0000)) = some (1, 0xC0, none, some 0b11) := by decide
theorem test_valid_lines :
    (Out.silent).qValid = false ∧ (Out.silent).outValid = false ∧ (⟨some 0x1B, some 0b11⟩ : Out).outValid = true := by decide

/-! ## Reference functions, the other forms, the host: S7, W7, W13, the lane vectors -/

theorem test_pack_truncates : pack Config.default [red, red, red, red, white] = [0xFF] := by decide
theorem test_pack_two_groups :
    pack Config.default [black, white, yellow, red, red, yellow, white, black] = [0x1B, 0xE4] := by decide
theorem test_unpack : unpack Config.default [0x16] = [black, white, white, yellow] := by decide
theorem test_lanes : packByte 0b01 0b00 0b00 0b10 = 0x42 ∧ packByte 0b00 0b11 0b11 0b00 = 0x3C := by decide
theorem test_shift_register :
    (ShiftPacker.outputs Config.default ⟨0, 0xFF⟩ [.pix black, .pix white, .pix yellow, .pix red]).map Out.outByte
      = [none, none, none, some 0x1B] := by decide
/-- P2: a host that expects 2 bytes for five pixels raises `SizeMismatch(1, 2)`. -/
theorem test_size_mismatch :
    convertFrame 2 [red, red, red, red, white] State.reset = .fault (.sizeMismatch 1 2) := by rfl
theorem test_listing : renderLines [0x1B] = [[['0', 'x', '1', 'B', ',', ' ']]] := by decide

/-! ## The stimulus notation: the examples of R58 and the programs -/

theorem test_parse_pix : parseLine "pix 255, 128,0 ; orange".toList = .ok (some (.one (.pix 255 128 0))) := by decide
theorem test_parse_hex : parseLine "pixf #FF8000".toList = .ok (some (.one (.pixfHex 0xFF8000))) := by decide
theorem test_parse_rep : parseLine "rep 384000, red".toList = .ok (some (.rep 384000 (.colour .red))) := by decide
theorem test_parse_others :
    parseLine "  ; a comment".toList = .ok none ∧ parseLine "pix 1 2 3".toList = .error .unreadableLine ∧
    parseLine "pix 0x80, 0, 0".toList = .ok (some (.one (.pix 128 0 0))) := by decide
theorem test_assemble :
    assemble Config.default [.one .startConversion, .rep 2 (.colour .red), .one .nop]
      = .ok [0x2000000, 0x1FF0000, 0x1FF0000, 0x0000000] ∧
    assemble Config.default [.one (.pix 0 256 0)] = .error .channelOutOfRange := by decide

/-! ## Witnesses: states and operands that meet the hypotheses of the statements -/

theorem test_witness_ExactPaletteColourGetsItsCode : Config.default.Distinct ∧ synthetic.Distinct := by decide

theorem test_witness_EarlierEntryWinsATie :
    distTo Config.default ⟨0#8, 255#8, 0#8⟩ 0 = distTo Config.default ⟨0#8, 255#8, 0#8⟩ 2 ∧ (0 : Fin 4) < 2 ∧
    synthetic = ⟨⟨10#8, 0#8, 0#8⟩, ⟨30#8, 0#8, 0#8⟩⟩ := by decide

/-- Entry 0, 1, 2 at the minimum with a later entry tied (Q7, Q8, S4), and entry 3 with none after it (Q4): no earlier entry ties. -/
theorem test_witness_EarlierEntryWinsATie_minimum :
    ((∀ k, distTo Config.default ⟨0#8, 255#8, 0#8⟩ 0 ≤ distTo Config.default ⟨0#8, 255#8, 0#8⟩ k) ∧
      ∀ i < (0 : Fin 4), distTo Config.default ⟨0#8, 255#8, 0#8⟩ i ≠ distTo Config.default ⟨0#8, 255#8, 0#8⟩ 0) ∧
    ((∀ k, distTo Config.default ⟨255#8, 0#8, 255#8⟩ 1 ≤ distTo Config.default ⟨255#8, 0#8, 255#8⟩ k) ∧
      ∀ i < (1 : Fin 4), distTo Config.default ⟨255#8, 0#8, 255#8⟩ i ≠ distTo Config.default ⟨255#8, 0#8, 255#8⟩ 1) ∧
    ((∀ k, distTo synthetic ⟨20#8, 0#8, 0#8⟩ 2 ≤ distTo synthetic ⟨20#8, 0#8, 0#8⟩ k) ∧
      ∀ i < (2 : Fin 4), distTo synthetic ⟨20#8, 0#8, 0#8⟩ i ≠ distTo synthetic ⟨20#8, 0#8, 0#8⟩ 2) ∧
    ((∀ k, distTo Config.default red 3 ≤ distTo Config.default red k) ∧
      ∀ i < (3 : Fin 4), distTo Config.default red i ≠ distTo Config.default red 3) := by decide

theorem test_witness_DistanceAccumulatorAgrees :
    [((3 : Byte), (7 : Byte)), (1, 5), (2, 6)].Perm [((1 : Byte), (5 : Byte)), (2, 6), (3, 7)] := by decide

theorem test_witness_DontCareFieldBehavesAlike :
    (0x3FFFFFF < 2 ^ 26) ∧ ((0b00#2 : BitVec 2) = 0b00#2 ∨ (0b00#2 : BitVec 2) = 0b10#2) ∧
    ((0b10#2 : BitVec 2) = 0b00#2 ∨ (0b10#2 : BitVec 2) = 0b10#2) := by decide

theorem test_witness_PixPlacesItsCode :
    (block 3 0xFC).cnt = 3#2 ∧ (block 2 0xF0).cnt ≠ 3#2 ∧ (block 0 0x00).cnt ≠ 3#2 ∧
    (block 3 0xFC).LowPairsClear ∧ (block 0 0x00).LowPairsClear ∧ (1 < 4 ∧ 1 ≠ 3 - (block 3 0xFC).cnt.toNat) := by decide

theorem test_witness_ClrDropsThePartialGroup : (block 0 0x00).LowPairsClear ∧ (block 0 0x00).cnt = 0#2 := by decide

theorem test_witness_EveryOperationCompletes :
    (block 3 0xFC [Ports.reset]).input ≠ [] ∧
    runInput (block 3 0xFC [Ports.reset]) = .next (block 0 0x00, [Out.silent]) := ⟨by decide, rfl⟩

theorem test_witness_OutputsOfAStep :
    exec (.pix red) (block 3 0x18) = .next { block 0 0x00 with out := ⟨some 0x1B, some 0b11⟩ } ∧
    (block 3 0x18 [Ports.reset]).input = Ports.reset :: [] ∧ Ports.reset.rst = true := ⟨rfl, rfl, rfl⟩

theorem test_witness_OperationFrame :
    exec .nop (block 2 0x60 [Ports.reset]) = .next (block 2 0x60 [Ports.reset]) := rfl

theorem test_witness_StepRunsThePresentedOperation :
    (block 2 0x60 [Ports.ofWord 0x1FF8000]).input = Ports.ofWord 0x1FF8000 :: [] ∧ (Ports.ofWord 0x1FF8000).rst = false ∧
    decode (Ports.ofWord 0x1FF8000).word = .pix ⟨255#8, 128#8, 0#8⟩ ∧
    decodeTableWord 32 0x3FFFFFF = some (.pixf white) ∧ (block 2 0x60).input = [] := by decide

theorem test_witness_ResetOverridesTheOperation :
    (block 3 0xFC [⟨true, 0b01, 0xFF0000⟩]).input = ⟨true, 0b01, 0xFF0000⟩ :: [] := rfl

theorem test_witness_ResetValues : (block 3 0xFC [Ports.reset]).input = Ports.reset :: [] ∧ Ports.reset.rst = true := by decide

theorem test_witness_StepKeepsTheInvariant :
    (block 3 0xFC [Ports.ofInstr .clr]).Inv ∧ step (block 3 0xFC [Ports.ofInstr .clr]) = .next (block 0 0x00) := ⟨by decide, rfl⟩

theorem test_witness_ReachableGroupsAreExactlyR18 :
    runInput { State.reset with cfg := synthetic, input := [Ports.reset] } = .next ({ State.reset with cfg := synthetic }, [Out.silent]) ∧
    synthetic.Distinct ∧ (0xFC#8).toNat % 2 ^ (2 * (4 - (3#2).toNat)) = 0 ∧ (0x00#8).toNat % 2 ^ (2 * (4 - (0#2).toNat)) = 0 :=
  ⟨rfl, by decide, by decide, by decide⟩

theorem test_witness_emptyGroup : (block 0 0x00 [Ports.reset]).cnt = 0#2 ∧ (block 0 0x00 [Ports.reset]).acc = 0x00#8 := by decide

theorem test_witness_FourPixelsMakeOneByte :
    State.reset.cnt = 0#2 ∧ State.reset.acc = 0x00#8 ∧ packByte 0b00 0b01 0b10 0b11 = packByte 0b00 0b01 0b10 0b11 := by decide

theorem test_witness_MachineRunsPack :
    ([Instr.nop, .clr, .pix red, .nop, .pix white].filter fun i => i ≠ .nop) = .clr :: [red, white].map .pix ∧
    (([Instr.pix red, .nop].filter fun i => i ≠ .nop) = [red].map .pix ∧ State.reset.cnt = 0#2 ∧ State.reset.acc = 0x00#8) ∧
    ([Instr.pixf red, .nop, .pix white].filter fun i => i ≠ .nop) = .pixf red :: [white].map .pix := by decide

theorem test_witness_AClearForgetsThePast :
    (Ports.ofInstr .clr).clears = true ∧ Ports.reset.clears = true ∧ (Ports.ofInstr (.pixf red)).clears = true ∧
    (block 3 0xFC).cfg = (block 1 0x40).cfg := by decide

theorem test_witness_WithoutAClearGroupsAreShifted :
    [(0b10#2 : Code), 0b10].length = (block 2 0xA0).cnt.toNat ∧ (block 2 0xA0).acc = leftAligned [0b10, 0b10] ∧
    ([] : List Code).length = (block 0 0x00).cnt.toNat ∧ (block 0 0x00).acc = leftAligned [] ∧
    [(0b11#2 : Code), 0b11, 0b11].length = (block 3 0xFC).cnt.toNat ∧ (block 3 0xFC).acc = leftAligned [0b11, 0b11, 0b11] := by decide

theorem test_witness_PixelPositionInTheOutput :
    [black, white, yellow, red, red][3]? = some red ∧ 3 < 4 * ([black, white, yellow, red, red].length / 4) ∧
    ∃ t outs, runInput (State.reset.presenting ([black, white, yellow, red].map .pix)) = .next (t, outs) ∧
      outs[4 * 0 + 3]? = some ⟨some 0x1B, some 0b11⟩ :=
  ⟨rfl, by decide, _, _, rfl, rfl⟩

theorem test_witness_PackByIndex :
    [black, white, yellow, red][4 * 0]? = some black ∧ [black, white, yellow, red][4 * 0 + 1]? = some white ∧
    [black, white, yellow, red][4 * 0 + 2]? = some yellow ∧ [black, white, yellow, red][4 * 0 + 3]? = some red := by decide

theorem test_witness_PackIsLocal :
    4 ∣ [black, white, yellow, red].length ∧ (∀ p ∈ [red, red, red, red], nearest Config.default p = 0b11#2) ∧
    0xFF#8 ∈ pack Config.default [red, red, red, red] ∧ (List.replicate 384000 red).length = 384000 :=
  ⟨by decide, by decide, by decide, List.length_replicate⟩

theorem test_witness_QuantizeTwiceIsOnce : synthetic.Distinct := by decide

theorem test_witness_UnpackByIndex :
    [(0x16#8 : Byte), 0x1B][1]? = some 0x1B ∧ 3 ≤ 3 ∧ [(0x16#8 : Byte), 0x1B].length * 4 = 4 * 2 ∧
    [(0x16#8 : Byte)].length * 4 ≠ 3 * 2 := by decide

theorem test_witness_UnpackOfPackIsQuantize : Config.default.Distinct ∧ 4 ∣ [black, white, yellow, red].length := by decide

theorem test_witness_AlignedChunksPackAlike :
    ∀ c ∈ [[black, white, yellow, red], [], [red]].dropLast, 4 ∣ c.length := by decide

theorem test_witness_HostChecksTheByteCount :
    [red, red, red, red, white].length / 4 ≠ 2 ∧ [red, red, red, red, white].length / 4 = 1 ∧
    (List.replicate (Config.frameWidth * Config.frameHeight) red).length = Config.frameWidth * Config.frameHeight :=
  ⟨by decide, by decide, List.length_replicate⟩

theorem test_witness_FrameGeometry : 799 < 800 ∧ (200 * 479 ≤ 95999 ∧ 95999 ≤ 200 * 479 + 199) ∧ 0 < 800 := by decide

theorem test_witness_ListingLines :
    (List.replicate 96000 (0xFF#8 : Byte)).length = 96000 ∧
    List.replicate 12 (renderToken 0xFF) ∈ (renderLines (List.replicate 13 0xFF)).dropLast :=
  ⟨List.length_replicate, by decide⟩

theorem test_witness_StimulusWords : 255 ≤ 255 ∧ (255 < 256 ∨ 255 < 0 ∨ 255 < 0) ∧ 0xFFFFFF < 2 ^ 24 := by decide

theorem test_witness_PseudoOperations :
    (StimOp.colour .red).wellFormed = true ∧ (StimOp.pix 0 0 256).wellFormed = false := by decide

/-- Both clauses on `rep` at n = 0: in range no word (R59), out of range the model's assembly error (log entry 9). -/
theorem test_witness_PseudoOperations_zero :
    assemble Config.default [.rep 0 (.colour .red)] = .ok [] ∧
    assemble Config.default [.rep 0 (.pix 0 0 256)] = .error .channelOutOfRange := by decide

end Sys2Proof.Tests
end

/-! SUPPORT and PROOFS. The palette table (R15). -/

namespace Sys2Proof

@[simp] theorem palRgb_black (cfg : Config) : cfg.palRgb 0 = ⟨0#8, 0#8, 0#8⟩ := rfl
@[simp] theorem palRgb_white (cfg : Config) : cfg.palRgb 1 = ⟨255#8, 255#8, 255#8⟩ := rfl
@[simp] theorem palRgb_yellow (cfg : Config) : cfg.palRgb 2 = cfg.yellow := rfl
@[simp] theorem palRgb_red (cfg : Config) : cfg.palRgb 3 = cfg.red := rfl

/-- The code of an entry is its position in scan order (R15). -/
theorem palCode_eq_ofNat (cfg : Config) (k : Fin 4) : cfg.palCode k = BitVec.ofNat 2 k.val := by
  have code_of_position : ∀ k : Fin 4, (Colour.ofIndex k).code = BitVec.ofNat 2 k.val := by decide
  exact code_of_position k

/-- The entry at the position a code names carries that code (R54). -/
theorem palCode_toFin (cfg : Config) (c : Code) : cfg.palCode c.toFin = c := by
  rw [palCode_eq_ofNat]
  exact (BitVec.ofNat_toNat 2 c).trans (BitVec.setWidth_eq c)

/-- Settles O1: each entry is read off the table by position. -/
theorem paletteTable : Obligations.PaletteTable := fun cfg =>
  ⟨palCode_eq_ofNat cfg, palRgb_black cfg, palRgb_white cfg, palRgb_yellow cfg, palRgb_red cfg⟩

end Sys2Proof

/-! SUPPORT and PROOFS. The outputs of each operation (R19) and the reset step (R24, R150). -/

namespace Sys2Proof.Machine

/-- PIX with three codes already placed (R92). -/
theorem after_pix_full {s : State} (full : s.cnt = 3#2) (p : Rgb) :
    after (.pix p) s = ((s.silence.showCode (nearest s.cfg p)).emit (placeCode s.cnt s.acc (nearest s.cfg p))).clearGroup :=
  pushCode_full (s := s.silence.showCode (nearest s.cfg p)) full _

/-- PIX with fewer than three codes placed (R92). -/
theorem after_pix_part {s : State} (part : s.cnt ≠ 3#2) (p : Rgb) :
    after (.pix p) s = (s.silence.showCode (nearest s.cfg p)).setGroup (s.cnt + 1#2)
      (placeCode s.cnt s.acc (nearest s.cfg p)) :=
  pushCode_part (s := s.silence.showCode (nearest s.cfg p)) part _

/-- A pixel's code is shown, and no other code (R19). -/
theorem after_qCode_eq_some_iff (i : Instr) (s : State) (c : Code) :
    (after i s).out.qCode = some c ↔ ∃ p, (i = .pix p ∨ i = .pixf p) ∧ c = nearest s.cfg p := by
  cases i with
  | nop => simp [after]
  | pix p => simp [after, eq_comm]
  | clr => simp [after]
  | pixf p => simp [after, eq_comm]

/-- The code line is valid in the pixel operations only (R19). -/
theorem after_qValid_iff (i : Instr) (s : State) :
    (after i s).out.qValid = true ↔ ∃ p, i = .pix p ∨ i = .pixf p := by
  rw [Out.qValid, Option.isSome_iff_exists]
  simp only [after_qCode_eq_some_iff]
  constructor
  · rintro ⟨_, p, hp, _⟩
    exact ⟨p, hp⟩
  · rintro ⟨p, hp⟩
    exact ⟨_, p, hp, rfl⟩

/-- A byte leaves in a PIX taken with three codes already placed, and in no other operation (R19). -/
theorem after_outValid_iff (i : Instr) (s : State) :
    (after i s).out.outValid = true ↔ (∃ p, i = .pix p) ∧ s.cnt = 3#2 := by
  cases i with
  | nop => simp [after, Out.outValid]
  | pix p =>
    by_cases full : s.cnt = 3#2
    · simp [after_pix_full full, Out.outValid, full]
    · simp [after_pix_part full, Out.outValid, full]
  | clr => simp [after, Out.outValid]
  | pixf p => simp [after, Out.outValid]

/-- A step with `rst` asserted resets the block, whatever operation stands beside it (R137(a), R150). -/
theorem step_of_rst {s : State} {p : Ports} {rest : List Ports} (hs : s.input = p :: rest) (hp : p.rst = true) :
    step s = .next (State.applyReset { s with input := rest }) := by
  have not_taken : p.operation = none := if_pos hp
  rw [step_of_input hs, afterPorts, not_taken]

/-- Settles O24: the outputs of an operation by its constructor, and the silent reset step. -/
theorem outputsOfAStep : Obligations.OutputsOfAStep := by
  refine ⟨fun i s t ht => ?_, fun s p rest hs hp => ⟨_, step_of_rst hs hp, rfl⟩⟩
  rw [exec_eq_after] at ht
  cases ht
  exact ⟨after_qCode_eq_some_iff i s, after_outValid_iff i s, after_qValid_iff i s⟩

/-- Settles O28: the initial state by evaluation, the reset step by what `applyReset` writes and keeps. -/
theorem resetValues : Obligations.ResetValues :=
  ⟨⟨rfl, rfl, rfl, rfl⟩, fun _ _ _ hs hp => ⟨_, step_of_rst hs hp, rfl, rfl, rfl, rfl, fun _ => rfl⟩⟩

end Sys2Proof.Machine

/-! SUPPORT. The distance of R72 to R74 as a number, and which entry the scan of R71 selects. -/

namespace Sys2Proof.Machine

/-- The 9-bit difference of two channels is exact (R73). -/
theorem toInt_channelDiff (c p : Byte) : (channelDiff c p).toInt = (c.toNat : Int) - p.toNat := by
  have hc := c.isLt
  have hp := p.isLt
  have widened : ∀ b : Byte, (b.setWidth 9).toInt = b.toNat := fun b => by
    have := b.isLt
    rw [BitVec.toInt_setWidth]
    exact Int.bmod_eq_of_le (by omega) (by omega)
  rw [channelDiff, BitVec.toInt_sub, widened, widened]
  exact Int.bmod_eq_of_le (by omega) (by omega)

/-- The square of a channel difference is at most 255 squared (R74). -/
theorem channel_sq_le (c p : Byte) : ((c.toNat : Int) - p.toNat) ^ 2 ≤ 65025 := by
  have hc := c.isLt
  have hp := p.isLt
  exact (sq_le_sq' (a := (c.toNat : Int) - p.toNat) (b := 255) (by omega) (by omega)).trans (by norm_num)

/-- The 16-bit square of a channel difference does not wrap (R74). -/
theorem toNat_squareDiff (c p : Byte) :
    ((squareDiff (channelDiff c p)).toNat : Int) = ((c.toNat : Int) - p.toNat) ^ 2 := by
  have upper := channel_sq_le c p
  have lower := sq_nonneg ((c.toNat : Int) - p.toNat)
  rw [squareDiff, toInt_channelDiff, ← sq, BitVec.toNat_ofInt]
  omega

/-- The 18-bit distance is the squared Euclidean distance (R72, R74). -/
theorem toNat_sqDist (x y : Rgb) :
    ((sqDist x y).toNat : Int) = ((x.r.toNat : Int) - y.r.toNat) ^ 2
      + ((x.g.toNat : Int) - y.g.toNat) ^ 2 + ((x.b.toNat : Int) - y.b.toNat) ^ 2 := by
  rw [← toNat_squareDiff, ← toNat_squareDiff, ← toNat_squareDiff]
  have hr := toNat_squareDiff x.r y.r ▸ channel_sq_le x.r y.r
  have hg := toNat_squareDiff x.g y.g ▸ channel_sq_le x.g y.g
  have hb := toNat_squareDiff x.b y.b ▸ channel_sq_le x.b y.b
  simp only [sqDist, BitVec.toNat_add, BitVec.toNat_setWidth]
  omega

/-- A channel difference whose square is 0 is no difference. -/
theorem eq_of_channel_sq_eq_zero {c p : Byte} (h : ((c.toNat : Int) - p.toNat) ^ 2 = 0) : c = p := by
  have difference := sq_eq_zero_iff.mp h
  exact BitVec.eq_of_toNat_eq (by omega)

/-- Distance 0 is equality (R72). -/
theorem sqDist_eq_zero_iff (x y : Rgb) : sqDist x y = 0#18 ↔ x = y := by
  constructor
  · intro h
    have sum := toNat_sqDist x y
    rw [h, BitVec.toNat_ofNat] at sum
    have r_nonneg := sq_nonneg ((x.r.toNat : Int) - y.r.toNat)
    have g_nonneg := sq_nonneg ((x.g.toNat : Int) - y.g.toNat)
    have b_nonneg := sq_nonneg ((x.b.toNat : Int) - y.b.toNat)
    have hr : x.r = y.r := eq_of_channel_sq_eq_zero (by omega)
    have hg : x.g = y.g := eq_of_channel_sq_eq_zero (by omega)
    have hb : x.b = y.b := eq_of_channel_sq_eq_zero (by omega)
    show (⟨x.r, x.g, x.b⟩ : Rgb) = ⟨y.r, y.g, y.b⟩
    rw [hr, hg, hb]
  · rintro rfl
    have sum := toNat_sqDist x x
    exact BitVec.eq_of_toNat_eq (by simpa using sum)

/-- The scan selects the entry that is strictly nearer than every earlier one and at least as near as every
later one (R71, R76). -/
theorem scanBest_eq {d : Fin 4 → DistVal} {k : Fin 4} (earlier : ∀ j < k, d k < d j) (later : ∀ j, k < j → d k ≤ d j) :
    scanBest d = k := by
  simp only [scanBest, List.foldl]
  fin_cases k <;> grind

/-- With pairwise distinct colours an exact palette colour gets its own code (R78). -/
theorem nearest_palRgb {cfg : Config} (distinct : cfg.Distinct) (k : Fin 4) :
    nearest cfg (cfg.palRgb k) = cfg.palCode k := by
  have own : distTo cfg (cfg.palRgb k) k = 0#18 := (sqDist_eq_zero_iff _ _).mpr rfl
  have other : ∀ j, j ≠ k → distTo cfg (cfg.palRgb k) j ≠ 0#18 := fun j hj h =>
    hj (distinct k j ((sqDist_eq_zero_iff _ _).mp h)).symm
  rw [nearest_eq_palCode]
  apply scanBest_eq
  · intro j hj
    have := other j hj.ne
    rw [own]
    bv_omega
  · intro j _
    rw [own]
    exact BitVec.le_def.mpr (Nat.zero_le _)

/-- The codes of the palette colours that a list of codes names are these codes (R54, R78). -/
theorem codes_map_paletteColorOf {cfg : Config} (distinct : cfg.Distinct) (cs : List Code) :
    codes cfg (cs.map (paletteColorOf cfg)) = cs := by
  have own_code : nearest cfg ∘ paletteColorOf cfg = id :=
    funext fun c => (nearest_palRgb distinct c.toFin).trans (palCode_toFin cfg c)
  rw [codes, List.map_map, own_code, List.map_id]

end Sys2Proof.Machine

/-! SUPPORT. An operation presented in canonical form is the operation taken (R51 to R53). -/

namespace Sys2Proof

@[simp] theorem rgbOfWord_wordOfRgb (p : Rgb) : rgbOfWord (wordOfRgb p) = p := by
  have channel (sh : Nat) (b : Byte) (h : ∀ k < 8, (wordOfRgb p).getLsbD (sh + k) = b.getLsbD k) :
      (wordOfRgb p).extractLsb' sh 8 = b :=
    BitVec.eq_of_getLsbD_eq fun k hk => by simp [hk, h k hk]
  have hr := channel 16 p.r fun k hk => by
    rw [getLsbD_wordOfRgb, if_neg (by omega), if_neg (by omega), Nat.add_sub_cancel_left]
  have hg := channel 8 p.g fun k hk => by
    rw [getLsbD_wordOfRgb, if_neg (by omega), if_pos (by omega), Nat.add_sub_cancel_left]
  have hb := channel 0 p.b fun k hk => by
    rw [getLsbD_wordOfRgb, if_pos (by omega), Nat.zero_add]
  rw [rgbOfWord, hr, hg, hb]

theorem decode_encode (i : Instr) : decode (encode i) = i := by
  cases i <;> simp [decode, encode]

end Sys2Proof

namespace Sys2Proof.Machine

@[simp] theorem Ports.operation_ofInstr (i : Instr) : (Ports.ofInstr i).operation = some i := by
  have not_reset : (Ports.ofInstr i).rst = false := rfl
  rw [Ports.operation, not_reset, Ports.ofInstr_word, decode_encode]
  rfl

/-- A step with an operation presented runs that operation (R50). -/
@[simp] theorem afterPorts_ofInstr (i : Instr) (rest : List Ports) (s : State) :
    afterPorts (Ports.ofInstr i) rest s = after i { s with input := rest } := by
  rw [afterPorts, Ports.operation_ofInstr]

end Sys2Proof.Machine

/-! SUPPORT. R18 bit by bit, and that every step keeps it. -/

namespace Sys2Proof.Machine

/-- The low `k` bits of a number are 0 exactly when it is a multiple of `2 ^ k`. -/
theorem toNat_mod_two_pow_eq_zero_iff {w : Nat} (b : BitVec w) (k : Nat) :
    b.toNat % 2 ^ k = 0 ↔ ∀ i < k, b.getLsbD i = false := by
  constructor
  · intro h i hi
    have bit := Nat.testBit_mod_two_pow b.toNat k i
    rw [h] at bit
    simpa [hi, BitVec.testBit_toNat] using bit.symm
  · intro h
    apply Nat.eq_of_testBit_eq
    intro i
    rw [Nat.testBit_mod_two_pow, Nat.zero_testBit]
    by_cases hi : i < k
    · simpa [hi, BitVec.testBit_toNat] using h i hi
    · simp [hi]

theorem lowPairsClear_iff (s : State) :
    s.LowPairsClear ↔ ∀ i < 2 * (4 - s.cnt.toNat), s.acc.getLsbD i = false :=
  toNat_mod_two_pow_eq_zero_iff _ _

theorem lowPairsClear_of_acc_eq_zero {s : State} (h : s.acc = 0#8) : s.LowPairsClear := by
  rw [lowPairsClear_iff, h]
  simp

/-- The count of an incomplete group does not wrap when a code is placed. -/
theorem toNat_add_one {n : BitVec 2} (part : n ≠ 3#2) : (n + 1#2).toNat = n.toNat + 1 := by bv_omega

/-- A code shifted to its pair leaves everything below that pair 0. -/
theorem getLsbD_shifted_code_below (c : Code) {sh i : Nat} (hi : i < sh) :
    (c.setWidth 8 <<< sh : Byte).getLsbD i = false := by
  simp [hi]

/-- The Packer's move keeps R18: the code lands above the pairs that are still free, or the group is cleared. -/
theorem pushCode_keeps_lowPairsClear {s : State} (hs : s.LowPairsClear) (c : Code) : (s.pushCode c).LowPairsClear := by
  by_cases part : s.cnt ≠ 3#2
  · rw [pushCode_part part, lowPairsClear_iff]
    rw [lowPairsClear_iff] at hs
    intro i hi
    have counted := toNat_add_one part
    rw [setGroup_cnt, counted] at hi
    rw [setGroup_acc, placeCode, BitVec.getLsbD_or, hs i (by omega),
      getLsbD_shifted_code_below c (by unfold pairShift; omega), Bool.or_false]
  · rw [pushCode_full (not_not.mp part)]
    exact lowPairsClear_of_acc_eq_zero rfl

theorem after_keeps_lowPairsClear (i : Instr) {s : State} (hs : s.LowPairsClear) : (after i s).LowPairsClear := by
  cases i with
  | nop => exact hs
  | pix p => exact pushCode_keeps_lowPairsClear (s := s.silence.showCode (nearest s.cfg p)) hs _
  | clr => exact lowPairsClear_of_acc_eq_zero rfl
  | pixf p => exact (lowPairsClear_iff _).mpr fun i hi => getLsbD_shifted_code_below _ hi

theorem afterPorts_keeps_lowPairsClear (p : Ports) (rest : List Ports) {s : State} (hs : s.LowPairsClear) :
    (afterPorts p rest s).LowPairsClear := by
  unfold afterPorts
  cases p.operation with
  | none => exact lowPairsClear_of_acc_eq_zero rfl
  | some i => exact after_keeps_lowPairsClear i hs

/-- What every step keeps holds at the end of a run. -/
theorem runPorts_keeps {P : State → Prop} (kept : ∀ p rest s, P s → P (afterPorts p rest s)) (ps : List Ports) (s : State)
    (hs : P s) : P (runPorts ps s).1 := by
  induction ps generalizing s with
  | nil => exact hs
  | cons p ps ih => exact ih _ (kept p ps s hs)

end Sys2Proof.Machine

/-! SUPPORT and PROOF. Which groups a run reaches (R18). -/

namespace Sys2Proof.Machine

@[simp] theorem presenting_cnt (s : State) (is : List Instr) : (s.presenting is).cnt = s.cnt := rfl
@[simp] theorem presenting_acc (s : State) (is : List Instr) : (s.presenting is).acc = s.acc := rfl
@[simp] theorem presenting_cfg (s : State) (is : List Instr) : (s.presenting is).cfg = s.cfg := rfl

/-- Pixels that do not complete the group place their codes one below the other (R92). -/
theorem runPorts_pix_part (ps : List Rgb) (s : State) (room : s.cnt.toNat + ps.length < 4) :
    ∃ t outs, runPorts ((ps.map Instr.pix).map Ports.ofInstr) s = (t, outs) ∧
      t.cnt.toNat = s.cnt.toNat + ps.length ∧
      t.acc = s.acc ||| leftAlignedFrom (pairShift s.cnt) (codes s.cfg ps) := by
  induction ps generalizing s with
  | nil => exact ⟨s, [], rfl, rfl, BitVec.or_zero.symm⟩
  | cons p ps ih =>
    rw [List.length_cons] at room
    have part : s.cnt ≠ 3#2 := by bv_omega
    have counted := toNat_add_one part
    have room_left : (s.cnt + 1#2).toNat + ps.length < 4 := by omega
    have moved : pairShift (s.cnt + 1#2) = pairShift s.cnt - 2 := by unfold pairShift; omega
    have placed := after_pix_part (s := { s with input := (ps.map Instr.pix).map Ports.ofInstr }) part p
    obtain ⟨t, outs, hrun, hcnt, hacc⟩ :=
      ih (after (.pix p) { s with input := (ps.map Instr.pix).map Ports.ofInstr }) (by rw [placed]; exact room_left)
    rw [placed] at hcnt hacc
    refine ⟨t, _, by rw [List.map_cons, List.map_cons, runPorts, afterPorts_ofInstr, hrun], ?_, ?_⟩
    · rw [hcnt, setGroup_cnt, counted, List.length_cons]
      omega
    · rw [hacc]
      simp only [setGroup_cnt, setGroup_acc, setGroup_cfg, showCode_cfg, silence_cfg, moved, placeCode, BitVec.or_assoc]
      rfl

/-- Fewer than four pixels from an empty group leave their codes left-aligned over zeros (R12, R92). -/
theorem runInput_pix_of_empty {s : State} (hcnt : s.cnt = 0#2) (hacc : s.acc = 0#8) (ps : List Rgb) (few : ps.length < 4) :
    ∃ t outs, runInput (s.presenting (ps.map .pix)) = .next (t, outs) ∧
      t.cnt.toNat = ps.length ∧ t.acc = leftAligned (codes s.cfg ps) := by
  obtain ⟨t, outs, hrun, tcnt, tacc⟩ := runPorts_pix_part ps (s.presenting (ps.map .pix)) (by simpa [hcnt] using few)
  refine ⟨t, outs, (runInput_eq_runPorts _).trans (congrArg _ hrun), ?_, ?_⟩
  · simpa [hcnt] using tcnt
  · simpa [hcnt, hacc, pairShift, leftAligned] using tacc

/-- The first `n` pairs of a byte, left-aligned, keep their places, and zeros stand below them (R12, R114). -/
theorem getLsbD_leftAligned_take_unpackByte (a : Byte) {n i : Nat} (hn : n < 4) (hi : i < 8) :
    (leftAligned ((unpackByte a).take n)).getLsbD i = (decide (2 * (4 - n) ≤ i) && a.getLsbD i) := by
  interval_cases n <;> interval_cases i <;> simp [leftAligned, leftAlignedFrom, unpackByte, pairOf]

/-- A partial byte that R18 allows is its first `n` pairs, left-aligned. -/
theorem leftAligned_take_unpackByte {a : Byte} {n : Nat} (hn : n < 4) (low : a.toNat % 2 ^ (2 * (4 - n)) = 0) :
    leftAligned ((unpackByte a).take n) = a := by
  rw [toNat_mod_two_pow_eq_zero_iff] at low
  apply BitVec.eq_of_getLsbD_eq
  intro i hi
  rw [getLsbD_leftAligned_take_unpackByte a hn hi]
  by_cases below : i < 2 * (4 - n)
  · rw [low i below, Bool.and_false]
  · rw [decide_eq_true (by omega), Bool.true_and]

/-- The number of groups that R18 allows: 1, 4, 16 and 64 for `cnt` = 0, 1, 2, 3. -/
theorem count_lowPairsClear :
    ((List.range 4).flatMap fun n => (List.range 256).filter fun a => a % 2 ^ (2 * (4 - n)) = 0).length = 85 := by
  decide

/-- Every group that R18 allows is reached from the empty one, by one pixel of the right palette colour for each of its codes. -/
theorem group_reached {s : State} (hcnt : s.cnt = 0#2) (hacc : s.acc = 0#8) (distinct : s.cfg.Distinct) (n : BitVec 2) (a : Byte)
    (low : a.toNat % 2 ^ (2 * (4 - n.toNat)) = 0) :
    ∃ is t outs, runInput (s.presenting is) = .next (t, outs) ∧ t.cnt = n ∧ t.acc = a := by
  let colours := ((unpackByte a).take n.toNat).map (paletteColorOf s.cfg)
  have len : colours.length = n.toNat := (List.length_map _).trans (List.length_take_of_le n.isLt.le)
  obtain ⟨t, outs, hrun, tcnt, tacc⟩ := runInput_pix_of_empty hcnt hacc colours (len ▸ n.isLt)
  refine ⟨colours.map .pix, t, outs, hrun, BitVec.eq_of_toNat_eq (tcnt.trans len), ?_⟩
  rw [tacc, codes_map_paletteColorOf distinct, leftAligned_take_unpackByte n.isLt low]

/-- Settles O31: R18 holds at reset and every step keeps it; each group it allows is reached by pushing its codes. -/
theorem reachableGroupsAreExactlyR18 : Obligations.ReachableGroupsAreExactlyR18 := by
  refine ⟨fun cfg ps t outs hrun => ?_, count_lowPairsClear, fun cfg n a distinct low => group_reached rfl rfl distinct n a low,
    fun i s => ⟨_, exec_eq_after i s⟩⟩
  rw [runInput_eq_runPorts] at hrun
  have at_end := runPorts_keeps (P := State.LowPairsClear) (fun p rest _ => afterPorts_keeps_lowPairsClear p rest) ps
    { State.reset with cfg := cfg, input := ps } (lowPairsClear_of_acc_eq_zero rfl)
  injection hrun with hrun
  rwa [hrun] at at_end

end Sys2Proof.Machine

/-! SUPPORT. Packing and unpacking a list of codes (R95, R111, R114). -/

namespace Sys2Proof.Machine

/-- Bit by bit, a completed byte is its four codes, the first in bits 7:6 (R95). -/
theorem getLsbD_packByte (c0 c1 c2 c3 : Code) (i : Nat) :
    (packByte c0 c1 c2 c3).getLsbD i =
      if i < 2 then c3.getLsbD i else if i < 4 then c2.getLsbD (i - 2) else if i < 6 then c1.getLsbD (i - 4)
      else c0.getLsbD (i - 6) := by
  rw [show packByte c0 c1 c2 c3 = (c0 ++ c1 ++ c2 ++ c3 : BitVec (2 + 2 + 2 + 2)) from rfl,
    BitVec.getLsbD_append, BitVec.getLsbD_append, BitVec.getLsbD_append]
  grind

/-- A completed byte is its four codes left-aligned (R95). -/
theorem packByte_eq_leftAligned (c0 c1 c2 c3 : Code) : packByte c0 c1 c2 c3 = leftAligned [c0, c1, c2, c3] := by
  apply BitVec.eq_of_getLsbD_eq
  intro i hi
  rw [getLsbD_packByte]
  interval_cases i <;> simp [leftAligned, leftAlignedFrom]

/-- The pairs of a completed byte are the codes it was made of (R95, R114). -/
theorem unpackByte_packByte (c0 c1 c2 c3 : Code) : unpackByte (packByte c0 c1 c2 c3) = [c0, c1, c2, c3] := by
  have pair (k : Nat) (c : Code) (h : ∀ i < 2, (packByte c0 c1 c2 c3).getLsbD (2 * k + i) = c.getLsbD i) :
      pairOf (packByte c0 c1 c2 c3) k = c :=
    BitVec.eq_of_getLsbD_eq fun i hi => by simp [pairOf, hi, h i hi]
  have h3 : pairOf (packByte c0 c1 c2 c3) 3 = c0 := pair 3 c0 (by grind [getLsbD_packByte])
  have h2 : pairOf (packByte c0 c1 c2 c3) 2 = c1 := pair 2 c1 (by grind [getLsbD_packByte])
  have h1 : pairOf (packByte c0 c1 c2 c3) 1 = c2 := pair 1 c2 (by grind [getLsbD_packByte])
  have h0 : pairOf (packByte c0 c1 c2 c3) 0 = c3 := pair 0 c3 (by grind [getLsbD_packByte])
  rw [unpackByte, h3, h2, h1, h0]

/-- Fewer than four codes make no byte (R35). -/
theorem packCodes_eq_nil {cs : List Code} (few : cs.length < 4) : packCodes cs = [] := by
  match cs with
  | [] | [_] | [_, _] | [_, _, _] => rfl
  | _ :: _ :: _ :: _ :: _ =>
    simp only [List.length_cons] at few
    omega

/-- A list that is not a group of four codes and more has fewer than four. -/
theorem length_lt_four_of_no_group {cs : List Code} (few : ∀ c0 c1 c2 c3 rest, cs = c0 :: c1 :: c2 :: c3 :: rest → False) :
    cs.length < 4 := by
  match cs with
  | [] | [_] | [_, _] | [_, _, _] => simp
  | _ :: _ :: _ :: _ :: _ => exact (few _ _ _ _ _ rfl).elim

/-- Every four codes make one byte (R111). -/
theorem packCodes_length (cs : List Code) : (packCodes cs).length = cs.length / 4 := by
  induction cs using packCodes.induct with
  | case1 c0 c1 c2 c3 cs ih =>
    simp only [packCodes, List.length_cons, ih]
    omega
  | case2 cs few =>
    have short := length_lt_four_of_no_group few
    rw [packCodes_eq_nil short, List.length_nil, Nat.div_eq_of_lt short]

/-- The pairs of the packed bytes are the codes of the complete groups (R111, R114). -/
theorem flatMap_unpackByte_packCodes (cs : List Code) :
    (packCodes cs).flatMap unpackByte = cs.take (4 * (cs.length / 4)) := by
  induction cs using packCodes.induct with
  | case1 c0 c1 c2 c3 cs ih =>
    have one_group : 4 * ((cs.length + 1 + 1 + 1 + 1) / 4) = 4 * (cs.length / 4) + 4 := by omega
    simp [packCodes, unpackByte_packByte, ih, one_group]
  | case2 cs few =>
    have short := length_lt_four_of_no_group few
    rw [packCodes_eq_nil short, Nat.div_eq_of_lt short]
    rfl

/-- Element `i` of the unpacked pairs is pair `3 - i mod 4` of byte `i div 4` (R33, R114). -/
theorem getElem?_flatMap_unpackByte (bs : List Byte) (i : Nat) :
    (bs.flatMap unpackByte)[i]? = bs[i / 4]?.map fun b => pairOf b (3 - i % 4) := by
  induction bs generalizing i with
  | nil => simp
  | cons b bs ih =>
    by_cases first : i < 4
    · interval_cases i <;> rfl
    · obtain ⟨k, rfl⟩ := Nat.exists_eq_add_of_le' (not_lt.mp first)
      have later : ((b :: bs).flatMap unpackByte)[k + 4]? = (bs.flatMap unpackByte)[k]? := by
        simp [unpackByte]
      rw [later, ih, Nat.add_mod_right, Nat.add_div_right k four_pos, List.getElem?_cons_succ]

/-- The pair in which code `i` of a packed list stands (R33). -/
theorem pairOf_packCodes {cs : List Code} {i : Nat} (complete : i < 4 * (cs.length / 4)) :
    (packCodes cs)[i / 4]?.map (fun v => pairOf v (3 - i % 4)) = cs[i]? := by
  rw [← getElem?_flatMap_unpackByte, flatMap_unpackByte_packCodes, List.getElem?_take_of_lt complete]

end Sys2Proof.Machine

/-! SUPPORT and PROOF. The bytes of a run of pixels, pixel by pixel (R33, R92). -/

namespace Sys2Proof.Machine

/-- The group holds the codes `cs`, left-aligned over zeros (R11, R12). -/
structure State.HoldsCodes (s : State) (cs : List Code) : Prop where
  count : cs.length = s.cnt.toNat
  aligned : s.acc = leftAligned cs

theorem holdsCodes_nil {s : State} (hcnt : s.cnt = 0#2) (hacc : s.acc = 0#8) : s.HoldsCodes [] :=
  ⟨by rw [hcnt]; rfl, hacc⟩

theorem State.HoldsCodes.length_lt {s : State} {cs : List Code} (h : s.HoldsCodes cs) : cs.length < 4 :=
  h.count ▸ s.cnt.isLt

/-- One more code goes below those already placed. -/
theorem leftAlignedFrom_concat (sh : Nat) (cs : List Code) (c : Code) :
    leftAlignedFrom sh (cs ++ [c]) = leftAlignedFrom sh cs ||| (c.setWidth 8 <<< (sh - 2 * cs.length)) := by
  induction cs generalizing sh with
  | nil => simp [leftAlignedFrom]
  | cons d cs ih =>
    have below : sh - 2 - 2 * cs.length = sh - 2 * (cs.length + 1) := by omega
    simp only [List.cons_append, leftAlignedFrom, ih, below, List.length_cons, BitVec.or_assoc]

/-- Placing a code in its pair appends it to the codes held (R12, R92). -/
theorem State.HoldsCodes.placeCode_eq {s : State} {cs : List Code} (h : s.HoldsCodes cs) (c : Code) :
    placeCode s.cnt s.acc c = leftAligned (cs ++ [c]) := by
  have shift : pairShift s.cnt = 6 - 2 * cs.length := by rw [pairShift, ← h.count]; omega
  rw [placeCode, h.aligned, shift, leftAligned, leftAligned, leftAlignedFrom_concat]

/-- A pixel moves its code into the group, or into the byte it completes: what left and what is held are the codes so far (R92). -/
theorem after_pix_packs {s : State} {cs : List Code} (h : s.HoldsCodes cs) (p : Rgb) :
    ∃ held, (after (.pix p) s).HoldsCodes held ∧ ∀ rest,
      packCodes (cs ++ nearest s.cfg p :: rest) = (after (.pix p) s).out.outByte.toList ++ packCodes (held ++ rest) := by
  by_cases full : s.cnt = 3#2
  · have three : cs.length = 3 := by rw [h.count, full]; rfl
    obtain ⟨c0, c1, c2, rfl⟩ := List.length_eq_three.mp three
    rw [after_pix_full full, h.placeCode_eq]
    exact ⟨[], holdsCodes_nil rfl rfl, fun rest => by simp [packCodes, packByte_eq_leftAligned]⟩
  · rw [after_pix_part full, h.placeCode_eq]
    refine ⟨cs ++ [nearest s.cfg p], ⟨?_, rfl⟩, fun rest => by simp⟩
    rw [setGroup_cnt, toNat_add_one full, ← h.count, List.length_append, List.length_singleton]

/-- The outputs of the steps that consume these pixels. -/
def pixelOuts (ps : List Rgb) (s : State) : List Out := (runPorts ((ps.map Instr.pix).map Ports.ofInstr) s).2

@[simp] theorem pixelOuts_length (ps : List Rgb) (s : State) : (pixelOuts ps s).length = ps.length := by
  rw [pixelOuts, runPorts_outs_length, List.length_map, List.length_map]

/-- A run of pixels presented shows their outputs (R160). -/
theorem runInput_presenting_pix (s : State) (ps : List Rgb) :
    ∃ t, runInput (s.presenting (ps.map .pix)) = .next (t, pixelOuts ps (s.presenting (ps.map .pix))) :=
  ⟨_, runInput_eq_runPorts _⟩

/-- The first pixel's outputs, then those of the rest from the state it leaves. -/
theorem pixelOuts_cons (p : Rgb) (ps : List Rgb) (s : State) :
    pixelOuts (p :: ps) s = (after (.pix p) (s.presenting (ps.map .pix))).out ::
      pixelOuts ps (after (.pix p) (s.presenting (ps.map .pix))) := by
  rw [pixelOuts, List.map_cons, List.map_cons, runPorts, afterPorts_ofInstr]
  rfl

/-- The bytes emitted up to any pixel are the packing of the codes held at first and the codes up to that pixel (R92). -/
theorem bytesOf_take_pixelOuts {s : State} {cs : List Code} (h : s.HoldsCodes cs) (ps : List Rgb) (k : Nat) :
    bytesOf ((pixelOuts ps s).take k) = packCodes (cs ++ codes s.cfg (ps.take k)) := by
  induction ps generalizing s cs k with
  | nil => simp [pixelOuts, runPorts, codes, packCodes_eq_nil h.length_lt]
  | cons p ps ih =>
    cases k with
    | zero => simp [codes, packCodes_eq_nil h.length_lt]
    | succ k =>
      have presented : (s.presenting (ps.map .pix)).HoldsCodes cs := ⟨h.count, h.aligned⟩
      obtain ⟨held, hheld, packs⟩ := after_pix_packs presented p
      rw [pixelOuts_cons, List.take_succ_cons, bytesOf_cons, ih hheld, after_cfg]
      exact (packs _).symm

@[simp] theorem bytesOf_append (outs outs' : List Out) : bytesOf (outs ++ outs') = bytesOf outs ++ bytesOf outs' :=
  List.filterMap_append

/-- One more step adds its own byte, if it emits one. -/
theorem bytesOf_take_succ {outs : List Out} {i : Nat} {o : Out} (ho : outs[i]? = some o) :
    bytesOf (outs.take (i + 1)) = bytesOf (outs.take i) ++ o.outByte.toList := by
  rw [List.take_add_one, ho, bytesOf_append, Option.toList_some, bytesOf_cons, bytesOf_nil, List.append_nil]

section
variable {s : State} (empty : s.HoldsCodes []) (ps : List Rgb)
include empty

/-- From an empty group a run of pixels emits their packing (R111, R112). -/
theorem bytesOf_pixelOuts : bytesOf (pixelOuts ps s) = packCodes (codes s.cfg ps) := by
  have all := bytesOf_take_pixelOuts empty ps ps.length
  rwa [List.take_length, List.take_of_length_le (pixelOuts_length ps s).le] at all

/-- From an empty group `k` pixels emit `k div 4` bytes (R33). -/
theorem bytesOf_take_pixelOuts_length {k : Nat} (hk : k ≤ ps.length) :
    (bytesOf ((pixelOuts ps s).take k)).length = k / 4 := by
  rw [bytesOf_take_pixelOuts empty, packCodes_length, List.nil_append, codes, List.length_map, List.length_take_of_le hk]

/-- From an empty group pixel `i` completes a byte when it is the fourth of its group (R33). -/
theorem pixelOuts_emits_iff {i : Nat} {o : Out} (ho : (pixelOuts ps s)[i]? = some o) :
    o.outByte.isSome = true ↔ i % 4 = 3 := by
  have hi : i < ps.length := by simpa using (List.getElem?_eq_some_iff.mp ho).1
  have before := bytesOf_take_pixelOuts_length empty ps hi.le
  have upto := bytesOf_take_pixelOuts_length empty ps hi
  rw [bytesOf_take_succ ho, List.length_append, before] at upto
  cases hbyte : o.outByte with
  | none =>
    have no_more : i / 4 = (i + 1) / 4 := by simpa [hbyte] using upto
    simp only [Option.isSome_none, Bool.false_eq_true, false_iff]
    omega
  | some v =>
    have one_more : i / 4 + 1 = (i + 1) / 4 := by simpa [hbyte] using upto
    simp only [Option.isSome_some, true_iff]
    omega

/-- From an empty group byte `j` leaves with pixel `4j+3` (R33). -/
theorem pixelOuts_byte {j : Nat} {o : Out} (ho : (pixelOuts ps s)[4 * j + 3]? = some o) :
    o.outByte = (bytesOf (pixelOuts ps s))[j]? := by
  have hi : 4 * j + 3 < ps.length := by simpa using (List.getElem?_eq_some_iff.mp ho).1
  have before : (bytesOf ((pixelOuts ps s).take (4 * j + 3))).length = j := by
    rw [bytesOf_take_pixelOuts_length empty ps hi.le]
    omega
  obtain ⟨v, hv⟩ := Option.isSome_iff_exists.mp ((pixelOuts_emits_iff empty ps ho).mpr (by omega))
  have bytes := bytesOf_append ((pixelOuts ps s).take (4 * j + 3 + 1)) ((pixelOuts ps s).drop (4 * j + 3 + 1))
  rw [List.take_append_drop, bytesOf_take_succ ho, List.append_assoc] at bytes
  rw [bytes, List.getElem?_append_right before.le, before, Nat.sub_self, hv]
  rfl

end

/-- Settles O37: the bytes out after each pixel are the packing of the codes so far, so a byte leaves with every fourth pixel, and its
pairs are that group's codes. -/
theorem pixelPositionInTheOutput : Obligations.PixelPositionInTheOutput := by
  intro s ps hcnt hacc
  have empty : (s.presenting (ps.map .pix)).HoldsCodes [] := holdsCodes_nil hcnt hacc
  obtain ⟨t, hrun⟩ := runInput_presenting_pix s ps
  have packed := bytesOf_pixelOuts empty ps
  rw [presenting_cfg] at packed
  have len : (codes s.cfg ps).length = ps.length := List.length_map _
  refine ⟨t, _, hrun, by rw [packed, packCodes_length, len], fun i o ho => pixelOuts_emits_iff empty ps ho,
    fun j o ho => pixelOuts_byte empty ps ho, fun i p hi hp => ?_⟩
  have code : (codes s.cfg ps)[i]? = some (nearest s.cfg p) := by rw [codes, List.getElem?_map, hp]; rfl
  rw [← len] at hi
  rw [packed]
  exact Option.map_eq_some_iff.mp ((pairOf_packCodes hi).trans code)

end Sys2Proof.Machine

/-! SUPPORT and PROOFS. The operand and operation words as numbers, and what `op` selects (R51 to R53, R57). -/

namespace Sys2Proof

/-- An operation word as a number: `op` above the 24 bits of `rgb` (R53). -/
theorem toNat_opWord (op : BitVec 2) (rgb : RgbWord) : (opWord op rgb).toNat = op.toNat * 2 ^ 24 + rgb.toNat := by
  rw [show opWord op rgb = (op ++ rgb : BitVec (2 + 24)) from rfl, BitVec.toNat_append,
    ← Nat.shiftLeft_add_eq_or_of_lt rgb.isLt, Nat.shiftLeft_eq]

/-- An operand word as a number: red in the high byte, blue in the low byte (R51). -/
theorem toNat_wordOfRgb (p : Rgb) : (wordOfRgb p).toNat = p.r.toNat * 2 ^ 16 + p.g.toNat * 2 ^ 8 + p.b.toNat := by
  rw [show wordOfRgb p = (p.r ++ p.g ++ p.b : BitVec (8 + 8 + 8)) from rfl, BitVec.toNat_append, BitVec.toNat_append,
    ← Nat.shiftLeft_add_eq_or_of_lt p.b.isLt, ← Nat.shiftLeft_add_eq_or_of_lt p.g.isLt, Nat.shiftLeft_eq, Nat.shiftLeft_eq]
  omega

/-- The word of a pixel operation as a number (R51, R53). -/
theorem toNat_opWord_wordOfRgb (op : BitVec 2) (p : Rgb) :
    (opWord op (wordOfRgb p)).toNat = op.toNat * 2 ^ 24 + p.r.toNat * 2 ^ 16 + p.g.toNat * 2 ^ 8 + p.b.toNat := by
  rw [toNat_opWord, toNat_wordOfRgb, Nat.add_assoc, Nat.add_assoc, Nat.add_assoc]

/-- Every operand word is the word of its three channels (R51). -/
@[simp] theorem wordOfRgb_rgbOfWord (w : RgbWord) : wordOfRgb (rgbOfWord w) = w := by
  apply BitVec.eq_of_getLsbD_eq
  intro k hk
  simp only [getLsbD_wordOfRgb, rgbOfWord, BitVec.getLsbD_extractLsb']
  by_cases blue : k < 8
  · simp [blue]
  · by_cases green : k < 16
    · simp [blue, green, show k - 8 < 8 by omega, show 8 + (k - 8) = k by omega]
    · simp [blue, green, show k - 16 < 8 by omega, show 16 + (k - 16) = k by omega]

/-- All four values of `op` are used (R52). -/
theorem op_cases (op : BitVec 2) : op = 0b00#2 ∨ op = 0b01#2 ∨ op = 0b10#2 ∨ op = 0b11#2 := by
  revert op
  decide

section
variable {w : OpWord}

theorem decode_of_nop (h : opField w = 0b00#2) : decode w = .nop := by rw [decode, h]; rfl
theorem decode_of_pix (h : opField w = 0b01#2) : decode w = .pix (rgbOfWord (rgbField w)) := by rw [decode, h]; rfl
theorem decode_of_clr (h : opField w = 0b10#2) : decode w = .clr := by rw [decode, h]; rfl
theorem decode_of_pixf (h : opField w = 0b11#2) : decode w = .pixf (rgbOfWord (rgbField w)) := by rw [decode, h]; rfl

end

/-- Without a pixel the operation does not depend on the `rgb` field (R57). -/
theorem decode_opWord_rgb_irrelevant {op : BitVec 2} (h : op = 0b00#2 ∨ op = 0b10#2) (a b : RgbWord) :
    decode (opWord op a) = decode (opWord op b) := by
  obtain rfl | rfl := h
  · rw [decode_of_nop (opField_opWord _ a), decode_of_nop (opField_opWord _ b)]
  · rw [decode_of_clr (opField_opWord _ a), decode_of_clr (opField_opWord _ b)]

/-- Every number of 26 bits is an operation word (R57). -/
theorem decodeNumber_of_lt {w : Nat} (h : w < 2 ^ 26) : decodeNumber w = .ok (decode (BitVec.ofNat 26 w)) := if_pos h

/-- Under the mask every word carries the match value of the operation it decodes to (R53). -/
theorem and_opMask_eq_pattern_decode (w : OpWord) : w &&& opMask = (decode w).pattern := by
  have masked : w &&& opMask = opWord (opField w) 0#24 := by
    rw [← opWord_and_mask (opField w) (rgbField w), opWord_fields]
  rw [masked]
  obtain h | h | h | h := op_cases (opField w)
  · rw [decode_of_nop h, h]; rfl
  · rw [decode_of_pix h, h]; rfl
  · rw [decode_of_clr h, h]; rfl
  · rw [decode_of_pixf h, h]; rfl

/-- Match values tell apart what mnemonics tell apart: neither depends on the operand (R52, R53). -/
theorem pattern_eq_iff_mnemonic_eq (i j : Instr) : i.pattern = j.pattern ↔ i.mnemonic = j.mnemonic := by
  cases i <;> cases j <;> simp [Instr.pattern, Instr.mnemonic]

/-- Settles O12: the word as a number, and each direction of the map undoing the other. -/
theorem operandWordLayout : Obligations.OperandWordLayout :=
  ⟨fun p => ⟨toNat_wordOfRgb p, rgbOfWord_wordOfRgb p⟩, wordOfRgb_rgbOfWord, rfl⟩

/-- Settles O13: in each case of `op` the word decodes to one operation, which is none of the other three. -/
theorem opFieldSelectsTheOperation : Obligations.OpFieldSelectsTheOperation := by
  intro w
  obtain h | h | h | h := op_cases (opField w)
  · simp [decode_of_nop h, h]
  · simp [decode_of_pix h, h]
  · simp [decode_of_clr h, h]
  · simp [decode_of_pixf h, h]

/-- Settles O14: the number is `op` above the operand's number, and a word matches the row of the operation it decodes to. -/
theorem operationWordLayout : Obligations.OperationWordLayout := by
  refine ⟨fun p => ⟨toNat_opWord_wordOfRgb 0b01#2 p, toNat_opWord_wordOfRgb 0b11#2 p⟩, rfl, rfl, fun w i => ?_, rfl, rfl⟩
  have masked : w &&& 0x3000000#26 = (decode w).pattern := and_opMask_eq_pattern_decode w
  rw [masked, pattern_eq_iff_mnemonic_eq]

end Sys2Proof

namespace Sys2Proof.Machine

/-- A step without reset runs the operation the presented word decodes to (R50). -/
theorem step_of_not_rst {s : State} {op : BitVec 2} {rgb : RgbWord} {rest : List Ports} (hs : s.input = ⟨false, op, rgb⟩ :: rest) :
    step s = .next (after (decode (opWord op rgb)) { s with input := rest }) :=
  step_of_input hs

/-- Settles O17: with NOP or CLR presented, the step runs what the word decodes to, whatever its `rgb` field. -/
theorem dontCareFieldBehavesAlike : Obligations.DontCareFieldBehavesAlike := by
  refine ⟨fun w hw => ⟨_, decodeNumber_of_lt hw⟩, fun s op a b rest hop => ?_, rfl, rfl⟩
  rw [step_of_not_rst rfl, step_of_not_rst rfl, decode_opWord_rgb_irrelevant hop a b]

end Sys2Proof.Machine

/-! SUPPORT. The channel difference and its square as numbers (R73, R74). -/

namespace Sys2Proof.Machine

/-- The 8-bit absolute difference is exact (R73). -/
theorem toNat_absDiff (c p : Byte) : (absDiff c p).toNat = ((c.toNat : Int) - p.toNat).natAbs := by
  unfold absDiff
  split
  · bv_omega
  · bv_omega

/-- The 16-bit square of a byte does not wrap (R74). -/
theorem toNat_squareAbs (a : Byte) : (squareAbs a).toNat = a.toNat ^ 2 := by
  have fits : a.toNat * a.toNat < 2 ^ 8 * 2 ^ 8 := Nat.mul_lt_mul'' a.isLt a.isLt
  rw [squareAbs, BitVec.toNat_mul, BitVec.toNat_setWidth_of_le (by decide), sq]
  exact Nat.mod_eq_of_lt fits

/-- The absolute and the signed difference have the same square (R73). -/
theorem squareAbs_absDiff (c p : Byte) : squareAbs (absDiff c p) = squareDiff (channelDiff c p) := by
  apply BitVec.eq_of_toNat_eq
  zify
  rw [toNat_squareDiff, toNat_squareAbs, toNat_absDiff, Nat.cast_pow, Int.natAbs_sq]

/-- The square of a channel difference is at most 255 squared (R74). -/
theorem toNat_squareDiff_le (c p : Byte) : (squareDiff (channelDiff c p)).toNat ≤ 65025 := by
  have := toNat_squareDiff c p ▸ channel_sq_le c p
  omega

/-- The 18-bit sum of the three squares does not wrap (R74). -/
theorem toNat_sqDist_eq_sum (x y : Rgb) :
    (sqDist x y).toNat = (squareDiff (channelDiff x.r y.r)).toNat + (squareDiff (channelDiff x.g y.g)).toNat
      + (squareDiff (channelDiff x.b y.b)).toNat := by
  zify
  simp only [toNat_sqDist, toNat_squareDiff]

theorem toNat_sqDist_le (x y : Rgb) : (sqDist x y).toNat ≤ 195075 := by
  have hr := toNat_squareDiff_le x.r y.r
  have hg := toNat_squareDiff_le x.g y.g
  have hb := toNat_squareDiff_le x.b y.b
  rw [toNat_sqDist_eq_sum]
  omega

/-- The distance is symmetric (R72). -/
theorem sqDist_comm (x y : Rgb) : sqDist x y = sqDist y x := by
  apply BitVec.eq_of_toNat_eq
  zify
  rw [toNat_sqDist, toNat_sqDist]
  ring

/-- Settles O2: both differences as integers, and their squares as one number. -/
theorem channelDifferenceIsExact : Obligations.ChannelDifferenceIsExact := by
  intro c p
  have exact_diff := toInt_channelDiff c p
  have hc := c.isLt
  have hp := p.isLt
  exact ⟨exact_diff, by omega, by omega, toNat_absDiff c p, squareAbs_absDiff c p⟩

/-- Settles O3: each square and the sum as a number with its bound, and the maximum by evaluation. -/
theorem distanceNeverWraps : Obligations.DistanceNeverWraps := by
  refine ⟨fun c p => ⟨toNat_squareDiff c p, toNat_squareDiff_le c p⟩,
    fun x y => ⟨toNat_sqDist_eq_sum x y, toNat_sqDist_le x y⟩, fun cfg => ?_, by decide, by decide, by decide⟩
  rw [distTo_white]
  decide

/-- Settles O4: the distance as a number, from which symmetry and the zero case follow. -/
theorem distanceIsSquaredEuclidean : Obligations.DistanceIsSquaredEuclidean :=
  fun x y => ⟨toNat_sqDist x y, sqDist_comm x y, sqDist_eq_zero_iff x y⟩

end Sys2Proof.Machine

/-! SUPPORT. The scan of R71 keeps the smallest index of a minimum (R76), and what that says of ties (R79). -/

namespace Sys2Proof.Machine

/-- `best` is the smallest index of a minimum among `d[0..n]` (R76). -/
def EarliestMinimum (d : Fin 4 → DistVal) (n best : Fin 4) : Prop :=
  best ≤ n ∧ (∀ k ≤ n, d best ≤ d k) ∧ ∀ j < best, d best < d j

theorem earliestMinimum_zero (d : Fin 4 → DistVal) : EarliestMinimum d 0 0 := by
  refine ⟨le_rfl, fun k hk => ?_, fun j hj => absurd hj (Fin.not_lt_zero j)⟩
  rw [Fin.le_zero_iff.mp hk]
  exact BitVec.le_refl _

/-- One comparison of the scan extends the minimum by the next entry (R71, R75). -/
theorem EarliestMinimum.step {d : Fin 4 → DistVal} {n m best : Fin 4} (h : EarliestMinimum d n best)
    (succ : m.val = n.val + 1) : EarliestMinimum d m (if d m < d best then m else best) := by
  obtain ⟨le_n, least, earlier⟩ := h
  have le_of_lt_next {k : Fin 4} (hk : k < m) : k ≤ n := by omega
  split
  case isTrue nearer =>
    have strict {k : Fin 4} (hk : k < m) : d m < d k := by
      have := least k (le_of_lt_next hk)
      bv_omega
    refine ⟨le_rfl, fun k hk => ?_, fun j hj => strict hj⟩
    obtain rfl | hlt := hk.eq_or_lt
    · exact BitVec.le_refl _
    · exact BitVec.le_of_lt (strict hlt)
  case isFalse not_nearer =>
    refine ⟨by omega, fun k hk => ?_, earlier⟩
    obtain rfl | hlt := hk.eq_or_lt
    · exact BitVec.not_lt.mp not_nearer
    · exact least k (le_of_lt_next hlt)

/-- After index `n` the scan's `best` is the smallest index of a minimum among `d[0..n]` (R76). -/
theorem earliestMinimum_scan (d : Fin 4 → DistVal) (n : Fin 4) :
    EarliestMinimum d n (([(1 : Fin 4), 2, 3].take n.val).foldl (fun best k => if d k < d best then k else best) 0) := by
  have after_0 := earliestMinimum_zero d
  have after_1 := after_0.step (m := 1) rfl
  have after_2 := after_1.step (m := 2) rfl
  have after_3 := after_2.step (m := 3) rfl
  match n with
  | 0 => exact after_0
  | 1 => exact after_1
  | 2 => exact after_2
  | 3 => exact after_3

theorem earliestMinimum_scanBest (d : Fin 4 → DistVal) : EarliestMinimum d 3 (scanBest d) := earliestMinimum_scan d 3

/-- Entry `k` is selected iff it is strictly nearer than every earlier entry and at least as near as every later one (R76). -/
theorem scanBest_eq_iff (d : Fin 4 → DistVal) (k : Fin 4) :
    scanBest d = k ↔ (∀ j < k, d k < d j) ∧ ∀ j, k < j → d k ≤ d j := by
  constructor
  · rintro rfl
    obtain ⟨-, least, earlier⟩ := earliestMinimum_scanBest d
    exact ⟨earlier, fun j _ => least j (Fin.le_last j)⟩
  · rintro ⟨earlier, later⟩
    exact scanBest_eq earlier later

/-- The distances to black and white differ by a linear function of the pixel, which is always odd (R79). -/
theorem distTo_black_sub_distTo_white (cfg : Config) (p : Rgb) :
    ((distTo cfg p 0).toNat : Int) - (distTo cfg p 1).toNat
      = 510 * ((p.r.toNat : Int) + p.g.toNat + p.b.toNat) - 195075 := by
  rw [distTo_black, distTo_white, toNat_sqDist, toNat_sqDist]
  simp only [BitVec.toNat_ofNat]
  ring

/-- Settles O5: the invariant of the scan at its end, at the entry selected, and at each of its steps. -/
theorem nearestIsEarliestMinimum : Obligations.NearestIsEarliestMinimum := by
  refine ⟨fun cfg p => ⟨scanBest (distTo cfg p), rfl, ?_⟩, fun cfg p k => ?_, earliestMinimum_scan⟩
  · obtain ⟨-, least, earlier⟩ := earliestMinimum_scanBest (distTo cfg p)
    exact ⟨fun k => least k (Fin.le_last k),
      fun j hj also_least => BitVec.not_lt.mpr (also_least _) (earlier j hj)⟩
  · rw [nearest_eq_palCode, scanBest_eq_iff]

/-- Settles O6: an exact palette colour is at distance 0 of its own entry only; black and white are entries 0 and 1. -/
theorem exactPaletteColourGetsItsCode : Obligations.ExactPaletteColourGetsItsCode :=
  ⟨fun _ distinct k => nearest_palRgb distinct k, fun _ distinct => ⟨nearest_palRgb distinct 0, nearest_palRgb distinct 1⟩⟩

/-- Settles O7: the selected entry is strictly nearer than every earlier one, which decides every tie. -/
theorem earlierEntryWinsATie : Obligations.EarlierEntryWinsATie := by
  refine ⟨fun cfg p j least untied => ?_, fun cfg p j k hjk tie => ?_, fun cfg p => ?_, fun cfg => ?_, ?_⟩
  · rw [nearest_eq_palCode, scanBest_eq_iff]
    refine ⟨fun i hi => ?_, fun i _ => least i⟩
    exact BitVec.lt_of_le_ne (least i) (untied i hi).symm
  · rw [Ne, nearest_eq_palCode, scanBest_eq_iff]
    rintro ⟨earlier, -⟩
    exact BitVec.lt_irrefl _ (tie ▸ earlier j hjk)
  · have difference := distTo_black_sub_distTo_white cfg p
    refine ⟨difference, fun tie => ?_⟩
    rw [tie] at difference
    omega
  · rw [distTo_black, distTo_white]
    decide
  · rintro cfg (rfl | rfl)
    · decide
    · decide

end Sys2Proof.Machine

/-! SUPPORT and PROOFS. The four operations as whole next states (R91 to R94), and the pairs of a byte a code was placed in (R12). -/

namespace Sys2Proof.Machine

/-- A code placed with three before it goes into pair 0 unshifted (R92). -/
theorem placeCode_full (a : Byte) (c : Code) : placeCode 3#2 a c = a ||| c.setWidth 8 := by
  simp [placeCode, pairShift]

/-- A code placed in the empty group stands in pair 3 over zeros (R92, R93). -/
theorem placeCode_empty (c : Code) : placeCode 0#2 0#8 c = c.setWidth 8 <<< 6 := BitVec.zero_or

/-- A code shifted to a pair loses no bit (R92). -/
theorem toNat_shifted_code (c : Code) {sh : Nat} (fits : sh ≤ 6) :
    (c.setWidth 8 <<< sh : Byte).toNat = c.toNat * 2 ^ sh := by
  have bound : c.toNat * 2 ^ sh < 2 ^ 2 * 2 ^ 6 :=
    Nat.mul_lt_mul_of_lt_of_le c.isLt (Nat.pow_le_pow_right two_pos fits) (by norm_num)
  rw [BitVec.toNat_shiftLeft, BitVec.toNat_setWidth_of_le (by decide), Nat.shiftLeft_eq]
  exact Nat.mod_eq_of_lt bound

theorem getLsbD_pairOf (b : Byte) (k : Nat) {i : Nat} (hi : i < 2) : (pairOf b k).getLsbD i = b.getLsbD (2 * k + i) := by
  simp [pairOf, hi]

theorem pairOf_or (a b : Byte) (k : Nat) : pairOf (a ||| b) k = pairOf a k ||| pairOf b k := by
  apply BitVec.eq_of_getLsbD_eq
  intro i hi
  simp only [BitVec.getLsbD_or, getLsbD_pairOf _ _ hi]

/-- A code shifted to pair `k` stands there. -/
theorem pairOf_shifted_code_same (c : Code) {k : Nat} (hk : k < 4) : pairOf (c.setWidth 8 <<< (2 * k)) k = c := by
  apply BitVec.eq_of_getLsbD_eq
  intro i hi
  rw [getLsbD_pairOf _ _ hi]
  simp [show 2 * k + i < 8 by omega]

/-- A code shifted to pair `j` leaves every other pair 0. -/
theorem pairOf_shifted_code_other (c : Code) {j k : Nat} (hk : k ≠ j) : pairOf (c.setWidth 8 <<< (2 * j)) k = 0#2 := by
  apply BitVec.eq_of_getLsbD_eq
  intro i hi
  rw [getLsbD_pairOf _ _ hi, BitVec.getLsbD_zero]
  obtain below | above := hk.lt_or_gt
  · exact getLsbD_shifted_code_below c (by omega)
  · have past_the_code : c.getLsbD (2 * k + i - 2 * j) = false := BitVec.getLsbD_of_ge c _ (by omega)
    simp [past_the_code]

/-- Under R18 the pair the next code goes into is 0 (R92). -/
theorem State.LowPairsClear.next_pair_eq_zero {s : State} (h : s.LowPairsClear) : pairOf s.acc (3 - s.cnt.toNat) = 0#2 := by
  have hcnt := s.cnt.isLt
  apply BitVec.eq_of_getLsbD_eq
  intro i hi
  rw [getLsbD_pairOf _ _ hi, BitVec.getLsbD_zero]
  exact (lowPairsClear_iff s).mp h _ (by omega)

/-- Under R18 the code placed stands alone in its pair (R92). -/
theorem pairOf_placeCode_own {s : State} (h : s.LowPairsClear) (c : Code) :
    pairOf (placeCode s.cnt s.acc c) (3 - s.cnt.toNat) = c := by
  rw [placeCode, pairShift, pairOf_or, h.next_pair_eq_zero, pairOf_shifted_code_same c (by omega), BitVec.zero_or]

/-- Placing a code keeps every other pair (R92). -/
theorem pairOf_placeCode_other (n : BitVec 2) (a : Byte) (c : Code) {k : Nat} (hk : k ≠ 3 - n.toNat) :
    pairOf (placeCode n a c) k = pairOf a k := by
  rw [placeCode, pairShift, pairOf_or, pairOf_shifted_code_other c hk, BitVec.or_zero]

/-- Placing code 0 changes nothing (R92). -/
theorem placeCode_zero (n : BitVec 2) (a : Byte) : placeCode n a 0b00#2 = a := by
  simp [placeCode]

/-- Under R18 an empty group has nothing in its byte (R18). -/
theorem State.LowPairsClear.acc_eq_zero {s : State} (h : s.LowPairsClear) (empty : s.cnt = 0#2) : s.acc = 0#8 := by
  have aligned := leftAligned_take_unpackByte s.cnt.isLt h
  rw [empty] at aligned
  exact aligned.symm

/-- PIXF does what CLR and then PIX on the same operand do (R93). -/
theorem after_pixf_eq (p : Rgb) (s : State) : after (.pixf p) s = after (.pix p) (after .clr s) := by
  have part : (after .clr s).cnt ≠ 3#2 := by simp [after]
  have placed : placeCode (after .clr s).cnt (after .clr s).acc (nearest s.cfg p) = (nearest s.cfg p).setWidth 8 <<< 6 :=
    placeCode_empty _
  rw [after_pix_part part, after_cfg, placed]
  rfl

/-- Settles O20: the whole next state for a complete and an incomplete group, and the pairs of the byte with the code in it. -/
theorem pixPlacesItsCode : Obligations.PixPlacesItsCode := by
  refine ⟨fun s p => ⟨fun full => ?_, fun part => ?_⟩, fun n c => toNat_shifted_code c (by unfold pairShift; omega),
    fun s c low => ⟨pairOf_placeCode_own low c, fun k _ hk => pairOf_placeCode_other _ _ c hk⟩,
    fun s => placeCode_zero s.cnt s.acc⟩
  · rw [exec_eq_after, after_pix_full full, full, placeCode_full]
    rfl
  · rw [exec_eq_after, after_pix_part part]
    rfl

/-- Settles O21: the next state by evaluation; under R18 an empty group already has both registers 0. -/
theorem clrDropsThePartialGroup : Obligations.ClrDropsThePartialGroup :=
  ⟨fun _ => rfl, fun _ low empty => ⟨_, rfl, empty.symm, (low.acc_eq_zero empty).symm⟩, fun _ => ⟨_, rfl, rfl⟩⟩

/-- Settles O22: the next state by evaluation, and the same state through CLR and PIX. -/
theorem pixfIsClrThenPix : Obligations.PixfIsClrThenPix := by
  refine ⟨fun _ _ => rfl, fun s p => ⟨after .clr s, exec_eq_after .clr s, ?_⟩⟩
  rw [exec_eq_after, exec_eq_after, after_pixf_eq]

end Sys2Proof.Machine

/-! SUPPORT and PROOFS. The run of pixels after a partial group (R97), and four pixels as one byte (R95). -/

namespace Sys2Proof.Machine

/-- Every pixel counts one up, modulo 4 (R92). -/
theorem after_pix_cnt (p : Rgb) (s : State) : (after (.pix p) s).cnt = s.cnt + 1#2 := by
  by_cases full : s.cnt = 3#2
  · rw [after_pix_full full, full]
    rfl
  · rw [after_pix_part full]
    rfl

/-- The count after a run of pixels (R11, R92). -/
theorem runPorts_pix_cnt (ps : List Rgb) (s : State) :
    (runPorts ((ps.map Instr.pix).map Ports.ofInstr) s).1.cnt.toNat = (s.cnt.toNat + ps.length) % 4 := by
  induction ps generalizing s with
  | nil => exact (Nat.mod_eq_of_lt s.cnt.isLt).symm
  | cons p ps ih =>
    rw [List.map_cons, List.map_cons, runPorts, afterPorts_ofInstr, ih, after_pix_cnt, BitVec.toNat_add, List.length_cons]
    simp only [BitVec.toNat_ofNat]
    omega

/-- From a group that holds the codes `cs` a run of pixels emits the packing of `cs` followed by its own codes (R97). -/
theorem runInput_pix_of_holdsCodes {s : State} {cs : List Code} (h : s.HoldsCodes cs) (ps : List Rgb) :
    ∃ t outs, runInput (s.presenting (ps.map .pix)) = .next (t, outs) ∧
      bytesOf outs = packCodes (cs ++ codes s.cfg ps) ∧ t.cnt.toNat = (cs.length + ps.length) % 4 := by
  have presented : (s.presenting (ps.map .pix)).HoldsCodes cs := ⟨h.count, h.aligned⟩
  have bytes := bytesOf_take_pixelOuts presented ps ps.length
  rw [List.take_length, List.take_of_length_le (pixelOuts_length ps _).le] at bytes
  refine ⟨_, _, runInput_eq_runPorts _, bytes, ?_⟩
  rw [h.count]
  exact runPorts_pix_cnt ps (s.presenting (ps.map .pix))

/-- Settles O36: the old codes stand in the group, and each pixel appends its own. -/
theorem withoutAClearGroupsAreShifted : Obligations.WithoutAClearGroupsAreShifted :=
  fun _ _ ps count aligned => runInput_pix_of_holdsCodes ⟨count, aligned⟩ ps

/-- A completed byte by shifts, as the Packer builds it (R95). -/
theorem packByte_eq_shifts (c0 c1 c2 c3 : Code) :
    packByte c0 c1 c2 c3 =
      (c0.setWidth 8 <<< 6) ||| (c1.setWidth 8 <<< 4) ||| (c2.setWidth 8 <<< 2) ||| c3.setWidth 8 := by
  simp [packByte_eq_leftAligned, leftAligned, leftAlignedFrom, BitVec.or_assoc]

/-- A completed byte as a number (R95). -/
theorem toNat_packByte (c0 c1 c2 c3 : Code) :
    (packByte c0 c1 c2 c3).toNat = 64 * c0.toNat + 16 * c1.toNat + 4 * c2.toNat + c3.toNat := by
  rw [show packByte c0 c1 c2 c3 = (c0 ++ c1 ++ c2 ++ c3 : BitVec (2 + 2 + 2 + 2)) from rfl,
    BitVec.toNat_append, BitVec.toNat_append, BitVec.toNat_append, ← Nat.shiftLeft_add_eq_or_of_lt c3.isLt,
    ← Nat.shiftLeft_add_eq_or_of_lt c2.isLt, ← Nat.shiftLeft_add_eq_or_of_lt c1.isLt]
  simp only [Nat.shiftLeft_eq]
  omega

/-- Every byte is the packing of its four pairs (R95, R114). -/
theorem packByte_pairOf (b : Byte) : packByte (pairOf b 3) (pairOf b 2) (pairOf b 1) (pairOf b 0) = b := by
  apply BitVec.eq_of_getLsbD_eq
  intro i hi
  rw [getLsbD_packByte]
  interval_cases i <;> simp [pairOf]

/-- Different quadruples of codes make different bytes (R95). -/
theorem packByte_injective {c0 c1 c2 c3 e0 e1 e2 e3 : Code} (h : packByte c0 c1 c2 c3 = packByte e0 e1 e2 e3) :
    c0 = e0 ∧ c1 = e1 ∧ c2 = e2 ∧ c3 = e3 := by
  have pairs := congrArg unpackByte h
  rw [unpackByte_packByte, unpackByte_packByte] at pairs
  simpa using pairs

/-- Settles O32: the run emits the packing of its four codes, which unpacking takes back to them. -/
theorem fourPixelsMakeOneByte : Obligations.FourPixelsMakeOneByte := by
  refine ⟨fun s p0 p1 p2 p3 hcnt hacc => ?_, fun b => ⟨_, _, _, _, packByte_pairOf b⟩,
    fun _ _ _ _ _ _ _ _ h => packByte_injective h, rfl⟩
  obtain ⟨t, outs, hrun, bytes, -⟩ := runInput_pix_of_holdsCodes (holdsCodes_nil hcnt hacc) [p0, p1, p2, p3]
  exact ⟨t, outs, _, hrun, bytes, packByte_eq_shifts _ _ _ _, rfl, toNat_packByte _ _ _ _⟩

end Sys2Proof.Machine

/-! SUPPORT and PROOF. An operation reads the registers and the palette only (R14, R19), so NOPs may stand anywhere (R91). -/

namespace Sys2Proof.Machine

/-- The same registers and palette; the outputs before and what is still presented may differ. -/
structure State.SameBlock (s u : State) : Prop where
  cnt : s.cnt = u.cnt
  acc : s.acc = u.acc
  cfg : s.cfg = u.cfg

/-- An operation does not read the outputs of the step before, and passes on what is still presented (R14, R39). -/
theorem after_with_out_input (i : Instr) (s : State) (o : Out) (rest : List Ports) :
    after i { s with out := o, input := rest } = { after i s with input := rest } := by
  cases i with
  | nop | clr | pixf => rfl
  | pix p =>
    by_cases full : s.cnt = 3#2
    · rw [after_pix_full full, after_pix_full (s := { s with out := o, input := rest }) full]
      rfl
    · rw [after_pix_part full, after_pix_part (s := { s with out := o, input := rest }) full]
      rfl

section
variable {s u : State} (h : s.SameBlock u)
include h

theorem State.SameBlock.with_input (rest rest' : List Ports) :
    State.SameBlock { s with input := rest } { u with input := rest' } := ⟨h.cnt, h.acc, h.cfg⟩

/-- On the same registers and palette an operation has the same effect and the same outputs (R14, R19). -/
theorem State.SameBlock.after_agrees (i : Instr) :
    (after i s).SameBlock (after i u) ∧ (after i s).out = (after i u).out := by
  obtain ⟨cnt, acc, out, input, cfg⟩ := u
  obtain ⟨rfl, rfl, rfl⟩ := h
  rw [after_with_out_input i s out input]
  exact ⟨⟨rfl, rfl, rfl⟩, rfl⟩

end

/-- With and without its NOPs a run ends with the same registers and gives the same bytes and codes (R91). -/
theorem runPorts_without_nops (is : List Instr) {s u : State} (h : s.SameBlock u) :
    let run := runPorts (is.map Ports.ofInstr) s
    let short := runPorts ((is.filter fun i => i ≠ .nop).map Ports.ofInstr) u
    run.1.SameBlock short.1 ∧ bytesOf run.2 = bytesOf short.2 ∧ codesOf run.2 = codesOf short.2 := by
  induction is generalizing s u with
  | nil => exact ⟨h, rfl, rfl⟩
  | cons i is ih =>
    by_cases nop : i = .nop
    · subst nop
      have skipped : (State.silence { s with input := is.map Ports.ofInstr }).SameBlock u := ⟨h.cnt, h.acc, h.cfg⟩
      simpa [runPorts, after] using ih skipped
    · rw [List.filter_cons_of_pos (by simpa using nop)]
      simp only [List.map_cons, runPorts, afterPorts_ofInstr, bytesOf_cons, codesOf_cons]
      obtain ⟨same, outs⟩ := (h.with_input (is.map Ports.ofInstr) ((is.filter fun i => i ≠ .nop).map Ports.ofInstr)).after_agrees i
      obtain ⟨ends, bytes, shown⟩ := ih same
      exact ⟨ends, by rw [outs, bytes], by rw [outs, shown]⟩

/-- Settles O19: NOP by evaluation, and the two runs step by step. -/
theorem nopDoesNothing : Obligations.NopDoesNothing := by
  refine ⟨fun _ => rfl, fun s is => ?_⟩
  have same : (s.presenting is).SameBlock (s.presenting (is.filter fun i => i ≠ .nop)) := ⟨rfl, rfl, rfl⟩
  obtain ⟨ends, bytes, shown⟩ := runPorts_without_nops is same
  exact ⟨_, _, _, _, runInput_eq_runPorts _, runInput_eq_runPorts _, bytes, shown, ends.cnt, ends.acc⟩

end Sys2Proof.Machine

/-! SUPPORT and PROOF. The trailing group of a list (R9), and the run of a conversion with NOPs anywhere in it (R112). -/

namespace Sys2Proof.Machine

theorem trailing_length {α : Type} (xs : List α) : (trailing xs).length = xs.length % 4 := by
  rw [trailing, List.length_drop]
  omega

/-- A list without a complete group is its own trailing group. -/
theorem trailing_of_lt {α : Type} {xs : List α} (few : xs.length < 4) : trailing xs = xs := by
  rw [trailing, Nat.div_eq_of_lt few, Nat.mul_zero, List.drop_zero]

/-- A list is its complete groups and its trailing group (R9). -/
theorem take_append_trailing {α : Type} (xs : List α) : xs.take (4 * (xs.length / 4)) ++ trailing xs = xs :=
  List.take_append_drop _ xs

/-- Complete groups in front do not change the trailing group. -/
theorem trailing_append_of_dvd {α : Type} {xs : List α} (groups : 4 ∣ xs.length) (ys : List α) :
    trailing (xs ++ ys) = trailing ys := by
  have past : 4 * ((xs ++ ys).length / 4) = xs.length + 4 * (ys.length / 4) := by
    rw [List.length_append]
    omega
  rw [trailing, past, List.drop_length_add_append, trailing]

/-- Complete groups may be dropped at any time: the trailing group is that of the whole list. -/
theorem trailing_trailing_append {α : Type} (xs ys : List α) : trailing (trailing xs ++ ys) = trailing (xs ++ ys) := by
  have groups : 4 ∣ (xs.take (4 * (xs.length / 4))).length := ⟨xs.length / 4, List.length_take_of_le (Nat.mul_div_le _ _)⟩
  calc trailing (trailing xs ++ ys)
      = trailing (xs.take (4 * (xs.length / 4)) ++ (trailing xs ++ ys)) := (trailing_append_of_dvd groups _).symm
    _ = trailing (xs ++ ys) := by rw [← List.append_assoc, take_append_trailing]

theorem codes_length (cfg : Config) (ps : List Rgb) : (codes cfg ps).length = ps.length := List.length_map _

theorem trailing_codes (cfg : Config) (ps : List Rgb) : trailing (codes cfg ps) = codes cfg (trailing ps) := by
  rw [trailing, codes_length, trailing, codes, codes, List.map_drop]

theorem State.SameBlock.holdsCodes {s u : State} (h : s.SameBlock u) {cs : List Code} (held : u.HoldsCodes cs) :
    s.HoldsCodes cs :=
  ⟨h.cnt ▸ held.count, h.acc ▸ held.aligned⟩

/-- A pixel appends its code to the group, which is dropped when it is complete (R92). -/
theorem after_pix_holdsCodes {s : State} {cs : List Code} (h : s.HoldsCodes cs) (p : Rgb) :
    (after (.pix p) s).HoldsCodes (trailing (cs ++ [nearest s.cfg p])) := by
  by_cases full : s.cnt = 3#2
  · have complete : trailing (cs ++ [nearest s.cfg p]) = [] := List.eq_nil_of_length_eq_zero (by
      rw [trailing_length, List.length_append, h.count, full, List.length_singleton]
      rfl)
    rw [after_pix_full full, complete]
    exact holdsCodes_nil rfl rfl
  · have count : (cs ++ [nearest s.cfg p]).length = (s.cnt + 1#2).toNat := by
      rw [toNat_add_one full, ← h.count, List.length_append, List.length_singleton]
    rw [after_pix_part full, h.placeCode_eq, trailing_of_lt (count ▸ BitVec.isLt _)]
    exact ⟨count, rfl⟩

/-- A run of pixels leaves the trailing group of the codes held at first and its own (R92, R112). -/
theorem runPorts_pix_holdsCodes {s : State} {cs : List Code} (h : s.HoldsCodes cs) (ps : List Rgb) :
    (runPorts ((ps.map Instr.pix).map Ports.ofInstr) s).1.HoldsCodes (trailing (cs ++ codes s.cfg ps)) := by
  induction ps generalizing s cs with
  | nil =>
    have no_codes : cs ++ codes s.cfg [] = cs := List.append_nil cs
    rw [no_codes, trailing_of_lt h.length_lt]
    exact h
  | cons p ps ih =>
    have presented : (s.presenting (ps.map .pix)).HoldsCodes cs := ⟨h.count, h.aligned⟩
    have at_end := ih (after_pix_holdsCodes presented p)
    rw [trailing_trailing_append, List.append_assoc, after_cfg] at at_end
    rw [List.map_cons, List.map_cons, runPorts, afterPorts_ofInstr]
    exact at_end

/-- A run of pixels shows their codes, from every state (R112). -/
theorem codesOf_pixelOuts (ps : List Rgb) (s : State) : codesOf (pixelOuts ps s) = codes s.cfg ps := by
  induction ps generalizing s with
  | nil => rfl
  | cons p ps ih =>
    have shown := (after_qCode_eq_some_iff (.pix p) (s.presenting (ps.map .pix)) _).mpr ⟨p, .inl rfl, rfl⟩
    rw [pixelOuts_cons, codesOf_cons, shown, ih, after_cfg]
    rfl

/-- The final state and the outputs of a run that packs the PixelStream `ps` (R112). -/
structure PackRun (cfg : Config) (ps : List Rgb) (run : State × List Out) : Prop where
  bytes : bytesOf run.2 = pack cfg ps
  shown : codesOf run.2 = codes cfg ps
  held : run.1.HoldsCodes (codes cfg (trailing ps))

/-- One PIX per pixel from an empty group packs the pixels (R112). -/
theorem packRun_pix {s : State} (empty : s.HoldsCodes []) (ps : List Rgb) :
    PackRun s.cfg ps (runPorts ((ps.map Instr.pix).map Ports.ofInstr) s) where
  bytes := bytesOf_pixelOuts empty ps
  shown := codesOf_pixelOuts ps s
  held := trailing_codes s.cfg ps ▸ runPorts_pix_holdsCodes empty ps

/-- CLR leaves an empty group (R94). -/
theorem after_clr_holdsCodes_nil (s : State) : (after .clr s).HoldsCodes [] := holdsCodes_nil rfl rfl

/-- CLR and one PIX per pixel pack the pixels, from every state (R112). -/
theorem packRun_clr_pix (s : State) (ps : List Rgb) :
    PackRun s.cfg ps (runPorts ((.clr :: ps.map .pix : List Instr).map Ports.ofInstr) s) := by
  obtain ⟨bytes, shown, held⟩ := packRun_pix (after_clr_holdsCodes_nil (s.presenting (ps.map .pix))) ps
  rw [List.map_cons, runPorts, afterPorts_ofInstr]
  exact ⟨bytes, shown, held⟩

/-- A run that begins with PIXF is the run that begins with PIX on the same pixel after CLR (R93). -/
theorem runPorts_pixf_cons (p : Rgb) (is : List Instr) (s : State) :
    runPorts ((.pixf p :: is).map Ports.ofInstr) s = runPorts ((.pix p :: is).map Ports.ofInstr) (after .clr s) := by
  simp only [List.map_cons, runPorts, afterPorts_ofInstr, after_pixf_eq]
  rfl

/-- PIXF for the first pixel and one PIX per further pixel pack the pixels, from every state (R112). -/
theorem packRun_pixf_pix (s : State) (p : Rgb) (ps : List Rgb) :
    PackRun s.cfg (p :: ps) (runPorts ((.pixf p :: ps.map .pix).map Ports.ofInstr) s) := by
  rw [runPorts_pixf_cons]
  exact packRun_pix (after_clr_holdsCodes_nil s) (p :: ps)

/-- NOPs anywhere in a run do not change what it packs (R91). -/
theorem packRun_of_without_nops {cfg : Config} {ps : List Rgb} {is : List Instr} {s : State}
    (short : PackRun cfg ps (runPorts ((is.filter fun i => i ≠ .nop).map Ports.ofInstr) s)) :
    PackRun cfg ps (runPorts (is.map Ports.ofInstr) s) := by
  obtain ⟨ends, bytes, shown⟩ := runPorts_without_nops is (s := s) (u := s) ⟨rfl, rfl, rfl⟩
  exact ⟨bytes.trans short.bytes, shown.trans short.shown, ends.holdsCodes short.held⟩

/-- Settles O33: without its NOPs the run is CLR and the pixels, the pixels alone, or PIXF and the pixels. -/
theorem machineRunsPack : Obligations.MachineRunsPack := by
  intro s ps is form
  have packs : PackRun s.cfg ps (runPorts (is.map Ports.ofInstr) (s.presenting is)) := by
    apply packRun_of_without_nops
    obtain clr | ⟨pixels, hcnt, hacc⟩ | ⟨p, rest, rfl, pixf⟩ := form
    · rw [clr]
      exact packRun_clr_pix (s.presenting is) ps
    · rw [pixels]
      exact packRun_pix (s := s.presenting is) (holdsCodes_nil hcnt hacc) ps
    · rw [pixf]
      exact packRun_pixf_pix (s.presenting is) p rest
  have count := packs.held.count
  rw [codes_length, trailing_length] at count
  exact ⟨_, _, runInput_eq_runPorts _, packs.bytes, packs.shown, count.symm, packs.held.aligned⟩

end Sys2Proof.Machine

/-! SUPPORT and PROOFS. The reference functions `pack`, `quantize` and `unpack` (R110 to R115). -/

namespace Sys2Proof.Machine

theorem pack_length (cfg : Config) (ps : List Rgb) : (pack cfg ps).length = ps.length / 4 := by
  rw [pack, packCodes_length, codes_length]

/-- Byte `j` is the packing of codes `4j` to `4j+3` (R111). -/
theorem getElem?_packCodes {cs : List Code} {j : Nat} {c0 c1 c2 c3 : Code} (h0 : cs[4 * j]? = some c0)
    (h1 : cs[4 * j + 1]? = some c1) (h2 : cs[4 * j + 2]? = some c2) (h3 : cs[4 * j + 3]? = some c3) :
    (packCodes cs)[j]? = some (packByte c0 c1 c2 c3) := by
  induction cs using packCodes.induct generalizing j with
  | case1 d0 d1 d2 d3 cs ih =>
    cases j with
    | zero =>
      cases h0; cases h1; cases h2; cases h3
      rfl
    | succ j => exact ih h0 h1 h2 h3
  | case2 cs few =>
    have short := length_lt_four_of_no_group few
    obtain ⟨within, -⟩ := List.getElem?_eq_some_iff.mp h3
    omega

/-- Complete groups are packed apart from what follows them (R113). -/
theorem packCodes_append {cs : List Code} (groups : 4 ∣ cs.length) (ds : List Code) :
    packCodes (cs ++ ds) = packCodes cs ++ packCodes ds := by
  induction cs using packCodes.induct with
  | case1 c0 c1 c2 c3 cs ih =>
    have rest : 4 ∣ cs.length := (Nat.dvd_add_left (dvd_refl 4)).mp groups
    simp only [List.cons_append, packCodes, ih rest]
  | case2 cs few =>
    have empty : cs.length = 0 := Nat.eq_zero_of_dvd_of_lt groups (length_lt_four_of_no_group few)
    rw [List.eq_nil_of_length_eq_zero empty]
    rfl

/-- The pairs of a packed byte are among the codes packed (R111). -/
theorem mem_of_mem_unpackByte {cs : List Code} {v : Byte} (hv : v ∈ packCodes cs) {c : Code} (hc : c ∈ unpackByte v) :
    c ∈ cs := by
  have among : c ∈ (packCodes cs).flatMap unpackByte := List.mem_flatMap.mpr ⟨v, hv, hc⟩
  rw [flatMap_unpackByte_packCodes] at among
  exact List.mem_of_mem_take among

/-- Four equal codes make the byte `0x55 * c` (R113). -/
theorem packByte_same (c : Code) : packByte c c c c = 0x55#8 * c.setWidth 8 := by
  revert c
  decide

/-- Equal codes make equal bytes (R113). -/
theorem eq_of_mem_packCodes {cs : List Code} {c : Code} (same : ∀ e ∈ cs, e = c) {v : Byte} (hv : v ∈ packCodes cs) :
    v = 0x55#8 * c.setWidth 8 := by
  have pairs : ∀ e ∈ unpackByte v, e = c := fun e he => same e (mem_of_mem_unpackByte hv he)
  obtain ⟨h3, h2, h1, h0⟩ : pairOf v 3 = c ∧ pairOf v 2 = c ∧ pairOf v 1 = c ∧ pairOf v 0 = c := by
    simpa [unpackByte] using pairs
  rw [← packByte_pairOf v, h3, h2, h1, h0, packByte_same]

/-- Settles O39: the length and each byte are those of the packed codes. -/
theorem packByIndex : Obligations.PackByIndex := by
  refine fun cfg ps => ⟨pack_length cfg ps, rfl, fun j p0 p1 p2 p3 h0 h1 h2 h3 => ?_⟩
  have code {i : Nat} {p : Rgb} (h : ps[i]? = some p) : (codes cfg ps)[i]? = some (nearest cfg p) := by
    rw [codes, List.getElem?_map, h]
    rfl
  exact getElem?_packCodes (code h0) (code h1) (code h2) (code h3)

/-- Settles O40: complete groups are packed apart, and the pairs of each byte are codes of the stream. -/
theorem packIsLocal : Obligations.PackIsLocal := by
  refine ⟨fun cfg ps qs groups => ?_, fun cfg ps c same v hv => ?_, fun cfg ps groups => ?_, fun cfg ps frame => ?_⟩
  · rw [pack, codes, List.map_append]
    exact packCodes_append (codes_length cfg ps ▸ groups) _
  · exact eq_of_mem_packCodes (List.forall_mem_map.mpr same) hv
  · rw [pack_length, Nat.mul_div_cancel' groups]
  · rw [pack_length, frame]

/-- Quantizing takes each pixel to its code and back to a colour (R110). -/
theorem quantize_eq_map_codes (cfg : Config) (ps : List Rgb) :
    quantize cfg ps = (codes cfg ps).map (paletteColorOf cfg) := by
  rw [codes, List.map_map]
  rfl

section
variable {cfg : Config} (distinct : cfg.Distinct)
include distinct

/-- A palette colour has the code that names it (R54, R78). -/
theorem nearest_paletteColorOf (c : Code) : nearest cfg (paletteColorOf cfg c) = c :=
  (nearest_palRgb distinct c.toFin).trans (palCode_toFin cfg c)

/-- Quantizing keeps the codes (R110). -/
theorem codes_quantize (ps : List Rgb) : codes cfg (quantize cfg ps) = codes cfg ps := by
  rw [quantize_eq_map_codes, codes_map_paletteColorOf distinct]

theorem quantize_quantize (ps : List Rgb) : quantize cfg (quantize cfg ps) = quantize cfg ps := by
  rw [quantize_eq_map_codes cfg (quantize cfg ps), codes_quantize distinct, quantize_eq_map_codes]

end

/-- Settles O41: a palette colour keeps its code, so quantizing keeps the codes and with them the colours. -/
theorem quantizeTwiceIsOnce : Obligations.QuantizeTwiceIsOnce :=
  fun _ distinct => ⟨nearest_paletteColorOf distinct, fun ps => ⟨codes_quantize distinct ps, quantize_quantize distinct ps⟩⟩

/-- Unpacking what was packed gives the quantized pixels of the complete groups (R115). -/
theorem unpack_pack (cfg : Config) (ps : List Rgb) :
    unpack cfg (pack cfg ps) = (quantize cfg ps).take (4 * (ps.length / 4)) := by
  rw [unpack, pack, flatMap_unpackByte_packCodes, codes_length, List.map_take, quantize_eq_map_codes]

/-- With no trailing group nothing is dropped (R115). -/
theorem unpack_pack_of_dvd (cfg : Config) {ps : List Rgb} (groups : 4 ∣ ps.length) :
    unpack cfg (pack cfg ps) = quantize cfg ps := by
  have len : (quantize cfg ps).length = ps.length := List.length_map _
  rw [unpack_pack, Nat.mul_div_cancel' groups, ← len, List.take_length]

/-- Packing the pairs of bytes gives the bytes (R95, R115). -/
theorem packCodes_flatMap_unpackByte (bs : List Byte) : packCodes (bs.flatMap unpackByte) = bs := by
  induction bs with
  | nil => rfl
  | cons b bs ih =>
    rw [List.flatMap_cons, packCodes_append (dvd_refl 4), ih, unpackByte, packCodes, packByte_pairOf]
    rfl

/-- Settles O43: the pairs of the packed bytes are the codes of the complete groups, whose colours keep them. -/
theorem unpackOfPackIsQuantize : Obligations.UnpackOfPackIsQuantize := by
  refine ⟨fun cfg ps groups => unpack_pack_of_dvd cfg groups, fun cfg ps distinct groups => ?_, unpack_pack,
    fun cfg bs distinct => ?_⟩
  · rw [pack, codes_quantize distinct, ← pack, unpack_pack_of_dvd cfg groups]
  · rw [pack, unpack, codes_map_paletteColorOf distinct, packCodes_flatMap_unpackByte]

end Sys2Proof.Machine

/-! SUPPORT and PROOF. Every operation, step and run completes (R130). -/

namespace Sys2Proof.Machine

theorem step_ne_fault (s : State) (f : Fault) : step s ≠ .fault f := by
  match hi : s.input with
  | [] => simp [step_of_no_input hi]
  | p :: rest => simp [step_of_input hi]

/-- A run of everything presented leaves nothing presented (R42, R160). -/
theorem runPorts_input {ps : List Ports} {s : State} (h : s.input = ps) : (runPorts ps s).1.input = [] := by
  induction ps generalizing s with
  | nil => exact h
  | cons p ps ih => exact ih (afterPorts_input p ps s)

theorem runIsSafe (s : State) : RunIsSafe s := ⟨_, _, runInput_eq_runPorts s, runPorts_input rfl⟩

/-- Settles O23: an operation answers `after`, a step with something presented answers `afterPorts`, and a run takes
everything presented, with one output for each value taken. -/
theorem everyOperationCompletes : Obligations.EveryOperationCompletes := by
  refine ⟨fun i s => ⟨_, exec_eq_after i s⟩, fun s presented => ?_, step_ne_fault, runIsSafe, fun s t outs hrun => ?_⟩
  · obtain ⟨p, rest, hs⟩ := List.exists_cons_of_ne_nil presented
    exact ⟨_, step_of_input hs⟩
  · rw [runInput_eq_runPorts] at hrun
    injection hrun with ran
    simpa [ran] using runPorts_outs_length s.input s

end Sys2Proof.Machine

/-! SUPPORT and PROOF. Decoding undoes encoding (R51 to R53). -/

namespace Sys2Proof

/-- Settles O15: the fields of an operation word are `op` and the operand word, which gives its channels back. -/
theorem decodeOfEncode : Obligations.DecodeOfEncode := decode_encode

end Sys2Proof

/-! SUPPORT and PROOFS. Reset and every step meet the invariant (R17, R18, R19). -/

namespace Sys2Proof.Machine

/-- An operation that emits a byte shows a code and leaves an empty group, whatever the state before (R19, R92). -/
theorem after_outputsAgree (i : Instr) (s : State) : (after i s).OutputsAgree := by
  intro emits
  obtain ⟨⟨p, rfl⟩, full⟩ := (after_outValid_iff i s).mp emits
  rw [after_pix_full full]
  exact ⟨rfl, rfl, rfl⟩

theorem afterPorts_outputsAgree (p : Ports) (rest : List Ports) (s : State) : (afterPorts p rest s).OutputsAgree := by
  unfold afterPorts
  cases p.operation with
  | none => exact fun emits => absurd emits Bool.false_ne_true
  | some i => exact after_outputsAgree i _

theorem afterPorts_keeps_inv (p : Ports) (rest : List Ports) {s : State} (h : s.Inv) : (afterPorts p rest s).Inv := by
  obtain ⟨low, distinct, -⟩ := h
  refine ⟨afterPorts_keeps_lowPairsClear p rest low, ?_, afterPorts_outputsAgree p rest s⟩
  rw [afterPorts_cfg]
  exact distinct

/-- Settles O30: a step keeps R18 and the palette, and its outputs agree with the registers it leaves. -/
theorem stepKeepsTheInvariant : Obligations.StepKeepsTheInvariant := by
  intro s s' h hstep
  obtain ⟨p, rest, -, rfl⟩ := step_next_cases hstep
  exact afterPorts_keeps_inv p rest h

/-- Settles O29: the byte is 0, the default colours differ, and there is no output. -/
theorem resetMeetsTheInvariant : Obligations.ResetMeetsTheInvariant :=
  ⟨lowPairsClear_of_acc_eq_zero rfl, by decide, fun emits => absurd emits Bool.false_ne_true⟩

end Sys2Proof.Machine

/-! SUPPORT and PROOF. The conversions of a run (R98): one step at a time, from a group that already holds some codes. -/

namespace Sys2Proof.Machine

/-- A step shows the code of the pixel it takes, if it takes one (R19, R31). -/
theorem afterPorts_qCode (p : Ports) (rest : List Ports) (s : State) :
    (afterPorts p rest s).out.qCode = p.pixel.map (nearest s.cfg) := by
  unfold afterPorts Ports.pixel
  cases p.operation with
  | none => rfl
  | some i => cases i <;> simp [after]

/-- A clear leaves nothing but the code of its own pixel in the group, and emits no byte (R93, R94, R150). -/
theorem afterPorts_of_clears {p : Ports} (hp : p.clears = true) (rest : List Ports) (s : State) :
    (afterPorts p rest s).HoldsCodes (codes s.cfg p.pixel.toList) ∧ (afterPorts p rest s).out.outByte = none := by
  unfold Ports.clears at hp
  unfold afterPorts Ports.pixel
  cases hop : p.operation with
  | none => exact ⟨holdsCodes_nil rfl rfl, rfl⟩
  | some i =>
    cases i with
    | nop | pix => simp [hop] at hp
    | clr => exact ⟨holdsCodes_nil rfl rfl, rfl⟩
    | pixf x => exact ⟨⟨rfl, BitVec.or_zero.symm⟩, rfl⟩

/-- A step that is no clear appends its code to those held; what left and what is held are the codes so far (R92). -/
theorem afterPorts_of_not_clears {p : Ports} (hp : p.clears = false) (rest : List Ports) {s : State} {cs : List Code}
    (h : s.HoldsCodes cs) :
    ∃ held, (afterPorts p rest s).HoldsCodes held ∧ held.length = (cs ++ codes s.cfg p.pixel.toList).length % 4 ∧
      ∀ later, packCodes (cs ++ codes s.cfg p.pixel.toList ++ later) =
        (afterPorts p rest s).out.outByte.toList ++ packCodes (held ++ later) := by
  unfold Ports.clears at hp
  unfold afterPorts Ports.pixel
  have taken : State.HoldsCodes { s with input := rest } cs := ⟨h.count, h.aligned⟩
  cases hop : p.operation with
  | none => simp [hop] at hp
  | some i =>
    cases i with
    | clr | pixf => simp [hop] at hp
    | nop =>
      refine ⟨cs, ⟨h.count, h.aligned⟩, ?_, fun later => ?_⟩
      · simp [codes, Nat.mod_eq_of_lt h.length_lt]
      · simp [codes, after]
    | pix x =>
      obtain ⟨held, hheld, packs⟩ := after_pix_packs taken x
      refine ⟨held, hheld, ?_, fun later => ?_⟩
      · rw [hheld.count, ← (after_pix_holdsCodes taken x).count, trailing_length]
        rfl
      · rw [List.append_assoc]
        exact packs later

section
variable {ps : List Ports} {l : List Rgb} {ls : List (List Rgb)} (split : pixelStreams ps = l :: ls)
include split

theorem pixelStreams_of_clears {p : Ports} (hp : p.clears = true) :
    pixelStreams (p :: ps) = [] :: (p.pixel.toList ++ l) :: ls := by
  rw [pixelStreams, splitAtClears_cons split, if_pos hp]

theorem pixelStreams_of_not_clears {p : Ports} (hp : p.clears = false) :
    pixelStreams (p :: ps) = (p.pixel.toList ++ l) :: ls := by
  rw [pixelStreams, splitAtClears_cons split, if_neg (Bool.not_eq_true _ ▸ hp)]

end


/-- The lists of a split sequence hold its items in order (R98). -/
theorem splitAtClears_flatten {β α : Type} (clears : β → Bool) (item : β → Option α) (es : List β) :
    (splitAtClears clears item es).flatten = es.filterMap item := by
  induction es with
  | nil => rfl
  | cons e es ih =>
    obtain ⟨l, ls, split⟩ := splitAtClears_first clears item es
    have joined : ((item e).toList ++ l) ++ ls.flatten = (e :: es).filterMap item := by
      rw [List.append_assoc, ← List.flatten_cons, ← split, ih]
      cases h : item e <;> simp [h]
    rw [splitAtClears_cons split]
    split
    · exact joined
    · exact joined

/-- A run shows the codes of the pixels it takes (R19, R31). -/
theorem codesOf_runPorts (ps : List Ports) (s : State) :
    codesOf (runPorts ps s).2 = codes s.cfg (ps.filterMap Ports.pixel) := by
  induction ps generalizing s with
  | nil => rfl
  | cons p ps ih =>
    rw [runPorts, codesOf_cons, ih, afterPorts_qCode, afterPorts_cfg]
    cases h : p.pixel <;> simp [codes, h]

/-- A run from a group that holds the codes `cs`, whose PixelStreams are `l :: ls`: each PackedBuffer is the packing of its
stream, the codes held at first standing in front of the first stream, and the last conversion gives the count (R98). -/
structure PacksConversions (cfg : Config) (cs : List Code) (ps : List Ports) (l : List Rgb) (ls : List (List Rgb))
    (run : State × List Out) : Prop where
  buffers : packedBuffers (ps.zip run.2) = packCodes (cs ++ codes cfg l) :: ls.map (pack cfg)
  count : ∃ last, ((cs ++ codes cfg l) :: ls.map (codes cfg)).getLast? = some last ∧ run.1.cnt.toNat = last.length % 4

section
variable {s : State} {cs : List Code} (h : s.HoldsCodes cs) {p : Ports} {ps : List Ports} {l : List Rgb} {ls : List (List Rgb)}
include h

/-- Before the first step no byte is complete, and the group holds its codes. -/
theorem packsConversions_nil : PacksConversions s.cfg cs [] [] [] (runPorts [] s) where
  buffers := by
    rw [show codes s.cfg [] = [] from rfl, List.append_nil, packCodes_eq_nil h.length_lt]
    rfl
  count := ⟨cs ++ [], rfl, by rw [List.append_nil, Nat.mod_eq_of_lt h.length_lt]; exact h.count.symm⟩

/-- A clear drops the codes held and starts a stream with its own pixel (R93, R94, R98). -/
theorem packsConversions_cons_of_clears (hp : p.clears = true)
    (tail : PacksConversions s.cfg (codes s.cfg p.pixel.toList) ps l ls (runPorts ps (afterPorts p ps s))) :
    PacksConversions s.cfg cs (p :: ps) [] ((p.pixel.toList ++ l) :: ls) (runPorts (p :: ps) s) := by
  obtain ⟨buffers, last, hlast, count⟩ := tail
  rw [codes, codes, ← List.map_append] at buffers hlast
  refine ⟨?_, last, ?_, count⟩
  · have no_byte := (afterPorts_of_clears hp ps s).2
    rw [runPorts, List.zip_cons_cons, packedBuffers, splitAtClears_cons buffers, if_pos hp, no_byte,
      show codes s.cfg [] = [] from rfl, List.append_nil, packCodes_eq_nil h.length_lt]
    rfl
  · rw [List.map_cons, List.getLast?_cons_cons]
    exact hlast

/-- A step that is no clear puts its pixel in front of the first stream (R92, R98). -/
theorem packsConversions_cons_of_not_clears (hp : p.clears = false)
    (tail : ∀ held, (afterPorts p ps s).HoldsCodes held →
      PacksConversions s.cfg held ps l ls (runPorts ps (afterPorts p ps s))) :
    PacksConversions s.cfg cs (p :: ps) (p.pixel.toList ++ l) ls (runPorts (p :: ps) s) := by
  obtain ⟨held, hheld, length, packs⟩ := afterPorts_of_not_clears hp ps h
  obtain ⟨buffers, last, hlast, count⟩ := tail held hheld
  have appended : cs ++ codes s.cfg (p.pixel.toList ++ l) = cs ++ codes s.cfg p.pixel.toList ++ codes s.cfg l := by
    rw [List.append_assoc, codes, codes, codes, List.map_append]
  constructor
  · rw [runPorts, List.zip_cons_cons, packedBuffers, splitAtClears_cons buffers, if_neg (Bool.not_eq_true _ ▸ hp),
      appended, packs]
  · rw [appended]
    cases ls with
    | nil =>
      have total : (held ++ codes s.cfg l).length % 4 = (cs ++ codes s.cfg p.pixel.toList ++ codes s.cfg l).length % 4 := by
        rw [List.length_append, List.length_append (bs := codes s.cfg l), length]
        exact Nat.mod_add_mod _ _ _
      cases hlast
      exact ⟨_, rfl, count.trans total⟩
    | cons l₂ ls₂ =>
      rw [List.map_cons, List.getLast?_cons_cons] at hlast ⊢
      exact ⟨last, hlast, count⟩

end

/-- Every run packs its conversions, whatever codes the group holds at first (R98). -/
theorem runPorts_packsConversions {s : State} {cs : List Code} (h : s.HoldsCodes cs) {ps : List Ports} {l : List Rgb}
    {ls : List (List Rgb)} (split : pixelStreams ps = l :: ls) : PacksConversions s.cfg cs ps l ls (runPorts ps s) := by
  induction ps generalizing s cs l ls with
  | nil =>
    cases split
    exact packsConversions_nil h
  | cons p ps ih =>
    obtain ⟨l', ls', split'⟩ := splitAtClears_first Ports.clears Ports.pixel ps
    have tail : ∀ held, (afterPorts p ps s).HoldsCodes held →
        PacksConversions s.cfg held ps l' ls' (runPorts ps (afterPorts p ps s)) :=
      fun held hheld => afterPorts_cfg p ps s ▸ ih hheld split'
    cases hp : p.clears with
    | true =>
      rw [pixelStreams_of_clears split' hp] at split
      cases split
      exact packsConversions_cons_of_clears h hp (tail _ (afterPorts_of_clears hp ps s).1)
    | false =>
      rw [pixelStreams_of_not_clears split' hp] at split
      cases split
      exact packsConversions_cons_of_not_clears h hp tail

/-- Settles O34: from the empty group no code stands in front of the first stream. -/
theorem everyConversionIsPacked : Obligations.EveryConversionIsPacked := by
  intro s hcnt hacc
  obtain ⟨l, ls, split⟩ := splitAtClears_first Ports.clears Ports.pixel s.input
  obtain ⟨buffers, last, hlast, count⟩ := runPorts_packsConversions (holdsCodes_nil hcnt hacc) split
  refine ⟨_, _, runInput_eq_runPorts s, ?_, ?_, ?_⟩
  · rw [buffers, pixelStreams, split]
    rfl
  · rw [codesOf_runPorts, pixelStreams, splitAtClears_flatten]
  · rw [List.nil_append, ← List.map_cons, List.getLast?_map] at hlast
    obtain ⟨stream, hstream, rfl⟩ := Option.map_eq_some_iff.mp hlast
    rw [codes_length] at count
    exact ⟨stream, (congrArg List.getLast? split).trans hstream, count⟩

end Sys2Proof.Machine

/-! SUPPORT and PROOF. The shift-register Packer simulates the machine (R96). -/

namespace Sys2Proof.Machine

/-- The shift register holds the machine's codes right-aligned, over bits that fall out before the byte is complete: moved up by
the pairs still free, it is the partial byte (R96). -/
structure ShiftPacker.Simulates (sp : ShiftPacker) (s : State) : Prop where
  count : sp.cnt = s.cnt
  aligned : s.acc = sp.sr <<< (2 * (4 - s.cnt.toNat))

/-- With the group empty nothing of the register is left (R96). -/
theorem ShiftPacker.simulates_of_empty {s : State} (hcnt : s.cnt = 0#2) (hacc : s.acc = 0#8) (sr : Byte) :
    ShiftPacker.Simulates ⟨0#2, sr⟩ s := by
  refine ⟨hcnt.symm, ?_⟩
  rw [hcnt, hacc]
  exact (BitVec.shiftLeft_eq_zero (le_refl 8)).symm

/-- Shifting a code in and moving the register up is placing the code in its pair (R92, R96). -/
theorem ShiftPacker.Simulates.placeCode_eq {sp : ShiftPacker} {s : State} (h : sp.Simulates s) (c : Code) :
    placeCode s.cnt s.acc c = ((sp.sr <<< 2) ||| c.setWidth 8) <<< pairShift s.cnt := by
  have hcnt := s.cnt.isLt
  have up : 2 * (4 - s.cnt.toNat) = 2 + pairShift s.cnt := by unfold pairShift; omega
  rw [placeCode, h.aligned, up, BitVec.shiftLeft_add, BitVec.shiftLeft_or_distrib]

/-- One pixel's code goes in on both sides with the same outputs (R92, R96). -/
theorem ShiftPacker.Simulates.push {sp : ShiftPacker} {s : State} (h : sp.Simulates s) (p : Rgb) :
    (sp.push (nearest s.cfg p)).1.Simulates (after (.pix p) s) ∧
      (sp.push (nearest s.cfg p)).2 = (after (.pix p) s).out := by
  have placed := h.placeCode_eq (nearest s.cfg p)
  by_cases full : s.cnt = 3#2
  · rw [after_pix_full full, ShiftPacker.push, if_pos (h.count.trans full), placed, full,
      show pairShift 3#2 = 0 from rfl, BitVec.shiftLeft_zero]
    exact ⟨ShiftPacker.simulates_of_empty rfl rfl _, rfl⟩
  · have up : pairShift s.cnt = 2 * (4 - (s.cnt + 1#2).toNat) := by rw [toNat_add_one full]; unfold pairShift; omega
    rw [after_pix_part full, ShiftPacker.push, if_neg (h.count ▸ full), placed, h.count, up]
    exact ⟨⟨rfl, rfl⟩, rfl⟩

/-- Every operation keeps the simulation and gives the same outputs (R96). -/
theorem ShiftPacker.Simulates.step {sp : ShiftPacker} {s : State} (h : sp.Simulates s) (i : Instr) :
    (sp.step s.cfg i).1.Simulates (after i s) ∧ (sp.step s.cfg i).2 = (after i s).out := by
  cases i with
  | nop => exact ⟨⟨h.count, h.aligned⟩, rfl⟩
  | pix p => exact h.push p
  | clr => exact ⟨ShiftPacker.simulates_of_empty rfl rfl sp.sr, rfl⟩
  | pixf p =>
    rw [after_pixf_eq]
    exact (ShiftPacker.simulates_of_empty (s := after .clr s) rfl rfl sp.sr).push p

/-- Under the simulation the two forms give the same outputs step by step (R96). -/
theorem ShiftPacker.Simulates.outputs_eq {sp : ShiftPacker} {s : State} (h : sp.Simulates s) (is : List Instr) :
    ShiftPacker.outputs s.cfg sp is = (runPorts (is.map Ports.ofInstr) s).2 := by
  induction is generalizing sp s with
  | nil => rfl
  | cons i is ih =>
    have presented : sp.Simulates (s.presenting is) := ⟨h.count, h.aligned⟩
    obtain ⟨simulates, out⟩ := presented.step i
    rw [presenting_cfg] at simulates out
    have rest := ih simulates
    rw [after_cfg, presenting_cfg] at rest
    rw [ShiftPacker.outputs, rest, out, List.map_cons, runPorts, afterPorts_ofInstr]
    rfl

/-- Settles O38: an empty group is simulated by a register with anything in it. -/
theorem shiftRegisterAgrees : Obligations.ShiftRegisterAgrees :=
  fun s sr is hcnt hacc => ⟨_, _, runInput_eq_runPorts _,
    (ShiftPacker.simulates_of_empty (s := s.presenting is) hcnt hacc sr).outputs_eq is⟩

end Sys2Proof.Machine

/-! SUPPORT and PROOFS. Words of the operation set and what they decode to (R52, R57). -/

namespace Sys2Proof

/-- Settles O16: with a pixel the word is `op` above its operand, without one the operand is dropped. -/
theorem encodeOfDecodeIsCanonical : Obligations.EncodeOfDecodeIsCanonical := by
  intro w
  have fields := opWord_fields w
  obtain h | h | h | h := op_cases (opField w)
  · rw [decode_of_nop h, h]
    rfl
  · rw [h] at fields
    rw [decode_of_pix h, encode, wordOfRgb_rgbOfWord, fields, h]
    rfl
  · rw [decode_of_clr h, h]
    rfl
  · rw [h] at fields
    rw [decode_of_pixf h, encode, wordOfRgb_rgbOfWord, fields, h]
    rfl

/-- Settles O18: each word by evaluation. -/
theorem listedWordsDecode : Obligations.ListedWordsDecode := ⟨rfl, rfl, rfl, rfl, rfl⟩

end Sys2Proof

/-! SUPPORT and PROOFS. The frame of an operation (R14, R16, R39), the step that takes it (R50), and the clear that forgets what was
before it (R99). -/

namespace Sys2Proof.Machine

/-- Settles O25: an operation keeps the palette and what is presented, and reads the registers and the palette only. -/
theorem operationFrame : Obligations.OperationFrame := by
  refine ⟨fun i s t ht => ?_, fun s t ht => ?_, fun i s o ps => ?_⟩
  · rw [exec_eq_after] at ht
    cases ht
    exact ⟨after_cfg i s, after_input i s⟩
  · rw [exec_eq_after] at ht
    cases ht
    exact ⟨rfl, rfl⟩
  · have same : State.SameBlock { s with out := o, input := ps } s := ⟨rfl, rfl, rfl⟩
    obtain ⟨ends, outs⟩ := same.after_agrees i
    exact ⟨_, _, exec_eq_after i s, exec_eq_after i _, ends.cnt, ends.acc, outs⟩

@[simp] theorem Ports.operation_ofWord (w : OpWord) : (Ports.ofWord w).operation = some (decode w) :=
  congrArg (some ∘ decode) (opWord_fields w)

/-- A step with an operation presented executes it in the state with the value taken (R39, R50). -/
theorem step_of_operation {s : State} {p : Ports} {rest : List Ports} {i : Instr} (hs : s.input = p :: rest)
    (hp : p.operation = some i) : step s = exec i { s with input := rest } := by
  rw [step_of_input hs, afterPorts, hp, exec_eq_after]

/-- A table word that decodes is a word of the ports (R53). -/
theorem decodeTableWord_eq_some {nbits w : Nat} {i : Instr} (h : decodeTableWord nbits w = some i) :
    w % 2 ^ nbits < 2 ^ 26 ∧ decode (BitVec.ofNat 26 (w % 2 ^ nbits)) = i := by
  unfold decodeTableWord decodeNumber at h
  by_cases fits : w % 2 ^ nbits < 2 ^ 26
  · rw [if_pos fits] at h
    exact ⟨fits, Option.some.inj h⟩
  · rw [if_neg fits] at h
    cases h

/-- Settles O26: each form of presenting puts the operation in front of what is already waiting. -/
theorem stepRunsThePresentedOperation : Obligations.StepRunsThePresentedOperation := by
  refine ⟨fun s p rest i hs not_reset hi => ?_, fun s i is => ?_, fun s nbits w i hw => ?_, fun s => step_of_no_input⟩
  · apply step_of_operation hs
    rw [Ports.operation, not_reset, hi]
    rfl
  · exact step_of_operation (s := s.presenting (i :: is)) rfl (Ports.operation_ofInstr i)
  · obtain ⟨fits, rfl⟩ := decodeTableWord_eq_some hw
    rw [State.withFetchWord, State.present, if_pos fits]
    exact step_of_operation rfl (Ports.operation_ofWord _)

/-- Settles O27: the reset step writes what CLR writes. -/
theorem resetOverridesTheOperation : Obligations.ResetOverridesTheOperation := by
  intro s op rgb rest hs
  have resets := step_of_rst hs rfl
  exact ⟨resets, resets.trans (exec_eq_after .clr _).symm⟩

/-- What a clear leaves depends on the palette only (R99). -/
theorem afterPorts_eq_of_clears {p : Ports} (hp : p.clears = true) (rest : List Ports) {s u : State} (same : s.cfg = u.cfg) :
    afterPorts p rest s = afterPorts p rest u := by
  obtain ⟨_, _, _, _, cfg⟩ := s
  cases same
  unfold Ports.clears at hp
  unfold afterPorts
  cases hop : p.operation with
  | none => rfl
  | some i =>
    cases i with
    | nop | pix => simp [hop] at hp
    | clr | pixf => rfl

/-- Settles O35: after the clear the two runs are one run. -/
theorem aClearForgetsThePast : Obligations.AClearForgetsThePast := by
  intro s u p rest hp same hs hu
  have one_run : runPorts (p :: rest) s = runPorts (p :: rest) u := by
    rw [runPorts, runPorts, afterPorts_eq_of_clears hp rest same]
  refine ⟨_, _, _, runInput_eq_runPorts s, ?_, rfl, rfl⟩
  rw [runInput_eq_runPorts u, hs, hu, one_run]

end Sys2Proof.Machine

/-! SUPPORT and PROOFS. The comparator tree (R80) and the distance accumulator (R81). -/

namespace Sys2Proof.Machine

/-- Settles O8: with the winner `w` of entries 0 and 1 in both forms, transitivity decides the comparison that the other form skips. -/
theorem comparatorTreeAgrees : Obligations.ComparatorTreeAgrees := by
  intro d
  simp only [treeBest, scanBest, List.foldl]
  generalize (if d 1 < d 0 then 1 else 0 : Fin 4) = w
  by_cases right : d 3 < d 2
  · by_cases nearer : d 2 < d w
    · have nearest_is_3 : d 3 < d w := BitVec.lt_trans right nearer
      simp [right, nearer, nearest_is_3]
    · simp [right, nearer]
  · by_cases nearer : d 2 < d w
    · simp [right, nearer]
    · have not_3 : ¬ d 3 < d w := by bv_omega
      simp [right, nearer, not_3]

/-- The accumulator's pair is the scan's `best` with its distance, and an update keeps it so (R81). -/
theorem accumulateBest_of_distance (d : Fin 4 → DistVal) (best k : Fin 4) :
    accumulateBest d (best, d best) k = (fun b => (b, d b)) (if d k < d best then k else best) := by
  rw [accumulateBest]
  split
  · rfl
  · rfl

theorem accumulatorBest_eq_scanBest (d : Fin 4 → DistVal) : accumulatorBest d = scanBest d :=
  congrArg Prod.fst (List.foldl_hom (fun b => (b, d b)) (accumulateBest_of_distance d))

/-- The channels may be accumulated in any order (R81). -/
theorem distAccumulated_perm {xs ys : List (Byte × Byte)} (h : xs.Perm ys) : distAccumulated xs = distAccumulated ys :=
  h.foldl_eq' (fun _ _ _ _ _ => by ac_rfl) _

/-- Accumulated in the order of the channels the distance is that of R72 (R73, R81). -/
theorem distAccumulated_channels (x y : Rgb) : distAccumulated [(x.r, y.r), (x.g, y.g), (x.b, y.b)] = sqDist x y := by
  simp only [distAccumulated, List.foldl, squareAbs_absDiff, BitVec.zero_add, sqDist]

/-- Settles O9: the running pair follows the scan, and the accumulated sum does not depend on the order. -/
theorem distanceAccumulatorAgrees : Obligations.DistanceAccumulatorAgrees := by
  refine ⟨accumulatorBest_eq_scanBest, fun x y channels h => ?_⟩
  rw [distAccumulated_perm h, distAccumulated_channels]

end Sys2Proof.Machine

/-! SUPPORT and PROOFS. Rows of equal length: unpacking into rows (R114) and the lines of the listing (R116); chunks (R43). -/

namespace Sys2Proof.Machine

/-- Row-major rows in order are the list, as far as they reach (R31). -/
theorem flatten_rows {α : Type} (width height : Nat) (xs : List α) :
    ((List.range height).map fun k => (xs.drop (width * k)).take width).flatten = xs.take (width * height) := by
  induction height with
  | zero => simp
  | succ n ih =>
    rw [List.range_succ, List.map_append, List.flatten_append, ih, Nat.mul_succ, List.take_add]
    simp

/-- A row that lies within the list is complete. -/
theorem row_length {α : Type} {width k : Nat} {xs : List α} (within : width * (k + 1) ≤ xs.length) :
    ((xs.drop (width * k)).take width).length = width := by
  rw [Nat.mul_succ] at within
  rw [List.length_take, List.length_drop]
  omega

theorem unpack_length (cfg : Config) (bs : List Byte) : (unpack cfg bs).length = 4 * bs.length := by
  induction bs with
  | nil => rfl
  | cons b bs ih =>
    rw [unpack, List.length_map] at ih ⊢
    rw [List.flatMap_cons, List.length_append, ih, List.length_cons, Nat.mul_succ, Nat.add_comm]
    rfl

/-- Settles O42: the pairs in order, and rows that are complete and cover the list when the shape matches. -/
theorem unpackByIndex : Obligations.UnpackByIndex := by
  refine fun cfg bs => ⟨unpack_length cfg bs, fun j i v hv hi => ?_, fun width height shape => ?_, fun width height shape => ?_⟩
  · have byte : (4 * j + i) / 4 = j := by omega
    have pair : (4 * j + i) % 4 = i := by omega
    rw [unpack, List.getElem?_map, getElem?_flatMap_unpackByte, byte, pair, hv]
    rfl
  · have len : (unpack cfg bs).length = width * height := by rw [unpack_length, ← shape, Nat.mul_comm]
    refine ⟨_, if_pos shape, by simp [rowsOf], fun row hrow => ?_, ?_⟩
    · obtain ⟨k, hk, rfl⟩ := List.mem_map.mp hrow
      rw [Nat.mul_comm k]
      exact row_length (len ▸ Nat.mul_le_mul_left width (List.mem_range.mp hk))
    · simp only [rowsOf, Nat.mul_comm _ width]
      rw [flatten_rows, ← len, List.take_length]
  · exact if_neg shape

/-- A line that lies within the listing has 12 tokens (R116). -/
theorem line_length {bs : List Byte} {k : Nat} (within : 12 * (k + 1) ≤ bs.length) :
    (((bs.drop (12 * k)).take 12).map renderToken).length = 12 := by
  rw [List.length_map, row_length within]

/-- Settles O47: the lines cover the bytes in order, and each line but perhaps the last lies within them. -/
theorem listingLines : Obligations.ListingLines := by
  refine fun bs => ⟨?_, fun line hline => ?_, fun whole => ⟨?_, fun line hline => ?_⟩, by decide⟩
  · have covers : bs.length ≤ 12 * ((bs.length + 11) / 12) := by omega
    rw [renderLines, ← Function.comp_def (List.map renderToken), ← List.map_map, ← List.map_flatten, flatten_rows,
      List.take_of_length_le covers]
  · rw [renderLines, ← List.map_dropLast, List.mem_map] at hline
    obtain ⟨k, hk, rfl⟩ := hline
    rw [List.dropLast_eq_take, List.take_range, List.mem_range, List.length_range] at hk
    exact line_length (by omega)
  · rw [renderLines, List.length_map, List.length_range, whole]
  · obtain ⟨k, hk, rfl⟩ := List.mem_map.mp hline
    rw [List.mem_range] at hk
    exact line_length (by omega)

/-- Complete groups in front are packed apart (R113). -/
theorem pack_append {cfg : Config} {ps : List Rgb} (groups : 4 ∣ ps.length) (qs : List Rgb) :
    pack cfg (ps ++ qs) = pack cfg ps ++ pack cfg qs :=
  packIsLocal.1 cfg ps qs groups

/-- Settles O44: each chunk but the last is complete groups, which are packed apart. -/
theorem alignedChunksPackAlike : Obligations.AlignedChunksPackAlike := by
  intro cfg chunks aligned
  induction chunks with
  | nil => rfl
  | cons c chunks ih =>
    cases chunks with
    | nil => simp [packChunks]
    | cons c' chunks =>
      rw [List.dropLast_cons_cons, List.forall_mem_cons] at aligned
      obtain ⟨first, later⟩ := aligned
      rw [List.flatten_cons, pack_append first, ← ih later]
      rfl

end Sys2Proof.Machine

/-! SUPPORT and PROOFS. The host's check of the byte count (R133) and the frame geometry (R31, R37). -/

namespace Sys2Proof.Machine

/-- What the host drives emits the packing of the frame, from every state (R112, R133). -/
theorem runInput_frameOperations (s : State) (ps : List Rgb) :
    ∃ t outs, runInput (s.presenting (frameOperations ps)) = .next (t, outs) ∧ bytesOf outs = pack s.cfg ps :=
  ⟨_, _, runInput_eq_runPorts _, (packRun_clr_pix (s.presenting (frameOperations ps)) ps).bytes⟩

/-- A conversion whose byte count differs from the expected one is aborted with both numbers (R133). -/
theorem convertFrame_of_ne {s : State} {ps : List Rgb} {expected : Nat} (h : ps.length / 4 ≠ expected) :
    convertFrame expected ps s = .fault (.sizeMismatch (ps.length / 4) expected) := by
  obtain ⟨t, outs, hrun, bytes⟩ := runInput_frameOperations s ps
  rw [convertFrame, hrun]
  simp only [bytes, pack_length, checkSize, if_pos h]

/-- A conversion with the expected byte count releases the packed buffer (R133, R134). -/
theorem convertFrame_of_eq {s : State} {ps : List Rgb} {expected : Nat} (h : ps.length / 4 = expected) :
    ∃ r, convertFrame expected ps s = .next r ∧ r.buffer = pack s.cfg ps := by
  obtain ⟨t, outs, hrun, bytes⟩ := runInput_frameOperations s ps
  rw [convertFrame, hrun]
  simp only [bytes, pack_length, checkSize, if_neg (not_not.mpr h)]
  exact ⟨_, rfl, rfl⟩

/-- Settles O45: the byte count is that of the packing, and the reference frame has the expected one. -/
theorem hostChecksTheByteCount : Obligations.HostChecksTheByteCount := by
  refine ⟨fun s ps expected => convertFrame_of_ne, fun s ps expected => convertFrame_of_eq, fun s ps frame => ?_⟩
  obtain ⟨r, converts, buffer⟩ := convertFrame_of_eq (s := s) (ps := ps) (expected := Config.expectedBytes) (by rw [frame]; rfl)
  refine ⟨r, converts, ?_⟩
  rw [buffer, pack_length, frame]
  rfl

/-- Settles O46: four pixels share a byte, and the row of 800 pixels begins at a multiple of 4. -/
theorem frameGeometry : Obligations.FrameGeometry := by
  simp only [Obligations.FrameGeometry, byteOffset]
  refine ⟨rfl, fun x y hx => by omega, fun y j lower upper => ⟨4 * (j - 200 * y), by omega, by omega⟩, fun width i hw => ?_⟩
  exact ⟨Nat.div_add_mod' i width, Nat.mod_lt i hw⟩

end Sys2Proof.Machine

/-! SUPPORT and PROOFS. The words a stimulus script assembles to (R58, R59). -/

namespace Sys2Proof.Machine

theorem assembleLine_one {cfg : Config} {o : StimOp} (ok : o.wellFormed = true) :
    assembleLine cfg (.one o) = .ok [stimInstr cfg o] := if_pos ok

theorem assembleLine_rep {cfg : Config} (n : Nat) {o : StimOp} (ok : o.wellFormed = true) :
    assembleLine cfg (.rep n o) = .ok (List.replicate n (stimInstr cfg o)) := if_pos ok

/-- The words of a script are those of its first line and then those of the rest (R58). -/
theorem assemble_cons {cfg : Config} {l : StimLine} {ls : List StimLine} {is : List Instr} {ws : List OpWord}
    (first : assembleLine cfg l = .ok is) (rest : assemble cfg ls = .ok ws) :
    assemble cfg (l :: ls) = .ok (is.map encode ++ ws) := by
  rw [assemble, first, rest]

/-- An operation in range assembles to its word (R58). -/
theorem assemble_one {cfg : Config} {o : StimOp} (ok : o.wellFormed = true) :
    assemble cfg [.one o] = .ok [encode (stimInstr cfg o)] := assemble_cons (assembleLine_one ok) rfl

/-- An operation in range repeated assembles to its word, repeated (R59). -/
theorem assemble_rep {cfg : Config} (n : Nat) {o : StimOp} (ok : o.wellFormed = true) :
    assemble cfg [.rep n o] = .ok (List.replicate n (encode (stimInstr cfg o))) := by
  rw [assemble_cons (assembleLine_rep n ok) rfl, List.map_replicate, List.append_nil]

/-- The same operation on `n` lines assembles to its word, `n` times (R58, R59). -/
theorem assemble_replicate_one {cfg : Config} (n : Nat) {o : StimOp} (ok : o.wellFormed = true) :
    assemble cfg (List.replicate n (.one o)) = .ok (List.replicate n (encode (stimInstr cfg o))) := by
  induction n with
  | zero => rfl
  | succ n ih =>
    rw [List.replicate_succ, assemble_cons (assembleLine_one ok) ih]
    rfl

/-- A line with an operand out of range is an assembly error (R58, U2). -/
theorem assemble_of_not_wellFormed {cfg : Config} {l : StimLine} (bad : l.wellFormed = false) :
    assemble cfg [l] = .error .channelOutOfRange := by
  have refused : assembleLine cfg l = .error .channelOutOfRange := if_neg (ne_true_of_eq_false bad)
  rw [assemble, refused]

/-- The word of an operand given as a number (R51, R58). -/
theorem toNat_opWord_ofNat (op : BitVec 2) {v : Nat} (h : v < 2 ^ 24) :
    (opWord op (wordOfRgb (rgbOfWord (BitVec.ofNat 24 v)))).toNat = op.toNat * 2 ^ 24 + v := by
  rw [wordOfRgb_rgbOfWord, toNat_opWord, BitVec.toNat_ofNat, Nat.mod_eq_of_lt h]

/-- The word of an operand given by its channels (R51, R58). -/
theorem toNat_opWord_channels (op : BitVec 2) {r g b : Nat} (hr : r ≤ 255) (hg : g ≤ 255) (hb : b ≤ 255) :
    (opWord op (wordOfRgb ⟨BitVec.ofNat 8 r, BitVec.ofNat 8 g, BitVec.ofNat 8 b⟩)).toNat =
      op.toNat * 2 ^ 24 + (r <<< 16) + (g <<< 8) + b := by
  have channel {c : Nat} (hc : c ≤ 255) : (BitVec.ofNat 8 c).toNat = c := by
    rw [BitVec.toNat_ofNat]
    omega
  rw [toNat_opWord_wordOfRgb, channel hr, channel hg, channel hb, Nat.shiftLeft_eq, Nat.shiftLeft_eq]

/-- Settles O48: each form in range assembles to the word of its operand, and a channel above 255 is out of range. -/
theorem stimulusWords : Obligations.StimulusWords := by
  refine fun cfg => ⟨⟨_, assemble_one rfl, rfl⟩, ⟨_, assemble_one rfl, rfl⟩, fun r g b hr hg hb => ?_, fun v hv => ?_,
    fun r g b out_of_range => ?_⟩
  · have in_range : (decide (r ≤ 255) && decide (g ≤ 255) && decide (b ≤ 255)) = true := by simp [hr, hg, hb]
    refine ⟨⟨_, assemble_one in_range, toNat_opWord_channels 0b01#2 hr hg hb⟩, ⟨_, assemble_one in_range, ?_⟩⟩
    rw [← Nat.add_assoc, ← Nat.add_assoc]
    exact toNat_opWord_channels 0b11#2 hr hg hb
  · have in_range : decide (v < 2 ^ 24) = true := decide_eq_true hv
    exact ⟨⟨_, assemble_one in_range, toNat_opWord_ofNat 0b01#2 hv⟩, ⟨_, assemble_one in_range, toNat_opWord_ofNat 0b11#2 hv⟩⟩
  · have bad : (decide (r ≤ 255) && decide (g ≤ 255) && decide (b ≤ 255)) = false := by
      simp only [Bool.and_eq_false_iff, decide_eq_false_iff_not]
      omega
    exact ⟨assemble_of_not_wellFormed bad, assemble_of_not_wellFormed bad⟩

/-- Settles O49: the words of each form, and the palette colour at each scan position. -/
theorem pseudoOperations : Obligations.PseudoOperations :=
  fun _ => ⟨rfl, rfl, fun _ => assemble_one rfl,
    fun n _ ok => (assemble_rep n ok).trans (assemble_replicate_one n ok).symm, fun _ _ bad => assemble_of_not_wellFormed bad⟩

end Sys2Proof.Machine

/-! SUPPORT and PROOF. The default palette's distances differ by linear functions of the pixel (R83). -/

namespace Sys2Proof.Machine

/-- The distances of a pixel to the default palette (R6's default), as integers. -/
def defaultDist (p : Rgb) (k : Fin 4) : Int := ((distTo Config.default p k).toNat : Int)

/-- A statement about every entry, entry by entry. -/
theorem forall_entry_iff {P : Fin 4 → Prop} : (∀ k, P k) ↔ P 0 ∧ P 1 ∧ P 2 ∧ P 3 := by
  simp [Fin.forall_fin_succ]

section
variable (p : Rgb)

theorem defaultDist_black_sub_white :
    defaultDist p 0 - defaultDist p 1 = 510 * ((p.r.toNat : Int) + p.g.toNat + p.b.toNat) - 195075 :=
  distTo_black_sub_distTo_white Config.default p

theorem defaultDist_black_sub_yellow :
    defaultDist p 0 - defaultDist p 2 = 510 * ((p.r.toNat : Int) + p.g.toNat) - 130050 := by
  simp only [defaultDist, distTo_black, distTo_yellow, toNat_sqDist, Config.default, BitVec.toNat_ofNat]
  ring

theorem defaultDist_black_sub_red : defaultDist p 0 - defaultDist p 3 = 510 * (p.r.toNat : Int) - 65025 := by
  simp only [defaultDist, distTo_black, distTo_red, toNat_sqDist, Config.default, BitVec.toNat_ofNat]
  ring

/-- No three entries tie: neighbours in scan order never do, and every three entries have two of them (R83). -/
theorem no_triple_tie {i j k : Fin 4} (hij : i < j) (hjk : j < k) :
    ¬ (defaultDist p i = defaultDist p j ∧ defaultDist p j = defaultDist p k) := by
  have white := defaultDist_black_sub_white p
  have yellow := defaultDist_black_sub_yellow p
  have red := defaultDist_black_sub_red p
  have pair_in_triple : ∀ i j k : Fin 4, i < j → j < k → i = 0 ∧ j = 1 ∨ i = 1 ∧ j = 2 ∨ j = 2 ∧ k = 3 := by decide
  rintro ⟨tie_ij, tie_jk⟩
  obtain ⟨rfl, rfl⟩ | ⟨rfl, rfl⟩ | ⟨rfl, rfl⟩ := pair_in_triple i j k hij hjk
  · omega
  · omega
  · omega

end

/-- Settles O10: all differences follow from those to black, and a tie needs an even difference. -/
theorem defaultPaletteClosedForm : Obligations.DefaultPaletteClosedForm := by
  refine ⟨fun p => ?_, by decide, by decide, by decide, by decide⟩
  have white := defaultDist_black_sub_white p
  have yellow := defaultDist_black_sub_yellow p
  have red := defaultDist_black_sub_red p
  intro d r g b
  refine ⟨⟨white, ?_, ?_⟩, ⟨yellow, ?_, ?_⟩, ⟨red, ?_, ?_⟩, ⟨?_, ?_, ?_⟩, ⟨?_, ?_, ?_⟩, ⟨?_, ?_, ?_⟩, ?_, ?_,
    fun i j k hij hjk ⟨tie_ij, tie_jk, _⟩ => no_triple_tie p hij hjk ⟨tie_ij, tie_jk⟩⟩
  all_goals
    simp only [show d = defaultDist p from rfl, forall_entry_iff]
    omega

end Sys2Proof.Machine

/-! SUPPORT and PROOF. The whole-space counts for the default palette (R83). Codes 00 and 01 mirror each other, and so do 10 and 11;
so one count of a region and the size of the space give all four. -/

namespace Sys2Proof.Machine

open Finset (range)

/-- The triple with these channels, as `countTriples` goes through them. -/
def rgbAt (r g b : Nat) : Rgb := ⟨BitVec.ofNat 8 r, BitVec.ofNat 8 g, BitVec.ofNat 8 b⟩

theorem toNat_ofNat_byte {c : Nat} (hc : c < 256) : (BitVec.ofNat 8 c).toNat = c := by
  rw [BitVec.toNat_ofNat]
  exact Nat.mod_eq_of_lt hc

theorem countP_range_eq_sum (n : Nat) (P : Nat → Prop) [DecidablePred P] :
    (List.range n).countP (fun k => P k) = ∑ k ∈ range n, if P k then 1 else 0 := by
  rw [Finset.sum_boole]
  exact Nat.count_eq_card_filter_range P n

/-- A count of triples as a sum over the three channels. -/
theorem countTriples_eq_sum (P : Rgb → Prop) [DecidablePred P] :
    countTriples (fun p => P p) = ∑ r ∈ range 256, ∑ g ∈ range 256, ∑ b ∈ range 256, if P (rgbAt r g b) then 1 else 0 := by
  have as_sum (f : Nat → Nat) (n : Nat) : ((List.range n).map f).sum = ∑ k ∈ range n, f k := rfl
  simp only [countTriples, as_sum, countP_range_eq_sum, rgbAt]
  rfl

/-- Triples that are equivalent under a predicate are counted alike. -/
theorem countTriples_congr {P Q : Rgb → Prop} [DecidablePred P] [DecidablePred Q] (h : ∀ p, P p ↔ Q p) :
    countTriples (fun p => P p) = countTriples (fun p => Q p) :=
  congrArg countTriples (funext fun p => decide_eq_decide.mpr (h p))

/-- The reflection of the colour cube that takes black to white and yellow to red. -/
def mirror (p : Rgb) : Rgb := ⟨~~~p.b, ~~~p.g, ~~~p.r⟩

theorem toNat_not_byte (c : Byte) : (~~~c).toNat = 255 - c.toNat := BitVec.toNat_not

theorem mirror_rgbAt {r g b : Nat} (hr : r < 256) (hg : g < 256) (hb : b < 256) :
    mirror (rgbAt r g b) = rgbAt (255 - b) (255 - g) (255 - r) := by
  have channel {c : Nat} (hc : c < 256) : ~~~(BitVec.ofNat 8 c) = BitVec.ofNat 8 (255 - c) := by
    apply BitVec.eq_of_toNat_eq
    rw [toNat_not_byte, toNat_ofNat_byte hc, toNat_ofNat_byte (by omega)]
  simp only [mirror, rgbAt, channel hr, channel hg, channel hb]

/-- A sum over the cube may be taken in mirrored order. -/
theorem sum_mirror (F : Nat → Nat → Nat → Nat) :
    ∑ r ∈ range 256, ∑ g ∈ range 256, ∑ b ∈ range 256, F (255 - b) (255 - g) (255 - r) =
      ∑ r ∈ range 256, ∑ g ∈ range 256, ∑ b ∈ range 256, F r g b := by
  have reflect (f : Nat → Nat) : ∑ c ∈ range 256, f (255 - c) = ∑ c ∈ range 256, f c := Finset.sum_range_reflect f 256
  calc ∑ r ∈ range 256, ∑ g ∈ range 256, ∑ b ∈ range 256, F (255 - b) (255 - g) (255 - r)
      = ∑ r ∈ range 256, ∑ g ∈ range 256, ∑ b ∈ range 256, F b g r := by
        rw [reflect fun r => ∑ g ∈ range 256, ∑ b ∈ range 256, F (255 - b) (255 - g) r]
        refine Finset.sum_congr rfl fun r _ => ?_
        rw [reflect fun g => ∑ b ∈ range 256, F (255 - b) g r]
        exact Finset.sum_congr rfl fun g _ => reflect fun b => F b g r
    _ = ∑ r ∈ range 256, ∑ b ∈ range 256, ∑ g ∈ range 256, F b g r := Finset.sum_congr rfl fun r _ => Finset.sum_comm
    _ = ∑ b ∈ range 256, ∑ r ∈ range 256, ∑ g ∈ range 256, F b g r := Finset.sum_comm
    _ = ∑ r ∈ range 256, ∑ g ∈ range 256, ∑ b ∈ range 256, F r g b := Finset.sum_congr rfl fun b _ => Finset.sum_comm

/-- A region and its mirror image have the same size. -/
theorem countTriples_mirror (P : Rgb → Prop) [DecidablePred P] :
    countTriples (fun p => P (mirror p)) = countTriples (fun p => P p) := by
  rw [countTriples_eq_sum, countTriples_eq_sum]
  refine Eq.trans ?_ (sum_mirror fun r g b => if P (rgbAt r g b) then 1 else 0)
  refine Finset.sum_congr rfl fun r hr => Finset.sum_congr rfl fun g hg => Finset.sum_congr rfl fun b hb => ?_
  rw [mirror_rgbAt (Finset.mem_range.mp hr) (Finset.mem_range.mp hg) (Finset.mem_range.mp hb)]

/-- Every triple has one of the four codes. -/
theorem countTriples_codes_sum (f : Rgb → Code) :
    countTriples (fun p => f p = 0b00#2) + countTriples (fun p => f p = 0b01#2) + countTriples (fun p => f p = 0b10#2)
      + countTriples (fun p => f p = 0b11#2) = 256 * (256 * 256) := by
  have one_code (c : Code) : (if c = 0b00#2 then 1 else 0) + (if c = 0b01#2 then 1 else 0) + (if c = 0b10#2 then 1 else 0)
      + (if c = 0b11#2 then 1 else 0) = 1 := by
    revert c
    decide
  rw [countTriples_eq_sum, countTriples_eq_sum, countTriples_eq_sum, countTriples_eq_sum]
  simp only [← Finset.sum_add_distrib, one_code, Finset.sum_const, Finset.card_range, smul_eq_mul, mul_one]

/-- The size of a region whose greens are an interval that depends on red, and whose blues are the lower half. -/
theorem countTriples_of_interval {P : Rgb → Prop} [DecidablePred P] (lo hi : Nat → Nat) (bound : ∀ r, hi r ≤ 256)
    (region : ∀ p, P p ↔ (lo p.r.toNat ≤ p.g.toNat ∧ p.g.toNat < hi p.r.toNat) ∧ p.b.toNat < 128) :
    countTriples (fun p => P p) = ∑ r ∈ range 256, (hi r - lo r) * 128 := by
  rw [countTriples_eq_sum]
  refine Finset.sum_congr rfl fun r hr => ?_
  have greens : (range 256).filter (fun g => lo r ≤ g ∧ g < hi r) = Finset.Ico (lo r) (hi r) := by
    ext g
    have := bound r
    simp only [Finset.mem_filter, Finset.mem_range, Finset.mem_Ico]
    omega
  have blues : (range 256).filter (fun b => b < 128) = range 128 := by
    ext b
    simp only [Finset.mem_filter, Finset.mem_range]
    omega
  have here {g b : Nat} (hg : g ∈ range 256) (hb : b ∈ range 256) :
      P (rgbAt r g b) ↔ (lo r ≤ g ∧ g < hi r) ∧ b < 128 := by
    rw [region, rgbAt, toNat_ofNat_byte (Finset.mem_range.mp hr), toNat_ofNat_byte (Finset.mem_range.mp hg),
      toNat_ofNat_byte (Finset.mem_range.mp hb)]
  calc ∑ g ∈ range 256, ∑ b ∈ range 256, (if P (rgbAt r g b) then 1 else 0)
      = ∑ g ∈ range 256, ∑ b ∈ range 256, (if lo r ≤ g ∧ g < hi r then 1 else 0) * (if b < 128 then 1 else 0) :=
        Finset.sum_congr rfl fun g hg => Finset.sum_congr rfl fun b hb => by
          rw [ite_zero_mul_ite_zero, mul_one]
          exact if_congr (here hg hb) rfl rfl
    _ = (hi r - lo r) * 128 := by
        rw [← Finset.sum_mul_sum, Finset.sum_boole, Finset.sum_boole, greens, blues, Nat.card_Ico, Finset.card_range]
        rfl

section
variable (p : Rgb)

/-- Which code the default palette gives, by distances as integers (R76). -/
theorem nearest_default_iff (k : Fin 4) :
    nearest Config.default p = Config.default.palCode k ↔
      (∀ j < k, defaultDist p k < defaultDist p j) ∧ ∀ j, k < j → defaultDist p k ≤ defaultDist p j := by
  rw [nearest_eq_palCode, scanBest_eq_iff]
  simp only [BitVec.lt_def, BitVec.le_def, defaultDist, Int.ofNat_lt, Int.ofNat_le]

/-- The region of each code, as inequalities of the channels (R83). -/
theorem nearest_default_regions :
    (nearest Config.default p = 0b00#2 ↔
      p.r.toNat ≤ 127 ∧ p.r.toNat + p.g.toNat ≤ 255 ∧ p.r.toNat + p.g.toNat + p.b.toNat ≤ 382) ∧
    (nearest Config.default p = 0b01#2 ↔
      128 ≤ p.b.toNat ∧ 255 ≤ p.g.toNat + p.b.toNat ∧ 383 ≤ p.r.toNat + p.g.toNat + p.b.toNat) ∧
    (nearest Config.default p = 0b10#2 ↔ 128 ≤ p.g.toNat ∧ 256 ≤ p.r.toNat + p.g.toNat ∧ p.b.toNat ≤ 127) ∧
    (nearest Config.default p = 0b11#2 ↔ 128 ≤ p.r.toNat ∧ p.g.toNat ≤ 127 ∧ p.g.toNat + p.b.toNat ≤ 254) := by
  have white := defaultDist_black_sub_white p
  have yellow := defaultDist_black_sub_yellow p
  have red := defaultDist_black_sub_red p
  refine ⟨(nearest_default_iff p 0).trans ?_, (nearest_default_iff p 1).trans ?_, (nearest_default_iff p 2).trans ?_,
    (nearest_default_iff p 3).trans ?_⟩
  all_goals
    simp only [forall_entry_iff, Fin.reduceLT, true_implies, false_implies, true_and, and_true]
    omega

/-- The ties at the minimum: black with yellow, and white with red (R83). -/
theorem default_ties :
    ((distTo Config.default p 0 = distTo Config.default p 2 ∧ ∀ m, distTo Config.default p 0 ≤ distTo Config.default p m) ↔
      p.r.toNat + p.g.toNat = 255 ∧ p.r.toNat ≤ 127 ∧ p.b.toNat ≤ 127) ∧
    ((distTo Config.default p 1 = distTo Config.default p 3 ∧ ∀ m, distTo Config.default p 1 ≤ distTo Config.default p m) ↔
      p.g.toNat + p.b.toNat = 255 ∧ 128 ≤ p.r.toNat ∧ p.g.toNat ≤ 127) := by
  obtain ⟨-, -, -, -, -, -, black_yellow, white_red, -⟩ := defaultPaletteClosedForm.1 p
  beta_reduce at black_yellow white_red
  simp only [← BitVec.toNat_inj, BitVec.le_def]
  exact_mod_cast And.intro black_yellow white_red

end

/-- A region whose mirror image satisfies the other predicate has the other's size. -/
theorem countTriples_eq_of_mirror {P Q : Rgb → Prop} [DecidablePred P] [DecidablePred Q] (h : ∀ p, P (mirror p) ↔ Q p) :
    countTriples (fun p => P p) = countTriples (fun p => Q p) :=
  (countTriples_mirror P).symm.trans (countTriples_congr h)

theorem count_black_eq_count_white :
    countTriples (fun p => nearest Config.default p = 0b00#2) = countTriples (fun p => nearest Config.default p = 0b01#2) := by
  refine countTriples_eq_of_mirror fun p => ?_
  obtain ⟨black, -⟩ := nearest_default_regions (mirror p)
  obtain ⟨-, white, -⟩ := nearest_default_regions p
  rw [black, white]
  simp only [mirror, toNat_not_byte]
  omega

theorem count_red_eq_count_yellow :
    countTriples (fun p => nearest Config.default p = 0b11#2) = countTriples (fun p => nearest Config.default p = 0b10#2) := by
  refine countTriples_eq_of_mirror fun p => ?_
  obtain ⟨-, -, -, red⟩ := nearest_default_regions (mirror p)
  obtain ⟨-, -, yellow, -⟩ := nearest_default_regions p
  rw [red, yellow]
  simp only [mirror, toNat_not_byte]
  omega

/-- A sum over red whose upper half is constant. -/
theorem sum_red_halves {f low : Nat → Nat} {high : Nat} (hlow : ∀ r < 128, f r = low r) (hhigh : ∀ r < 128, f (128 + r) = high) :
    ∑ r ∈ range 256, f r = ∑ r ∈ range 128, low r + 128 * high := by
  rw [Finset.sum_range_add f 128 128, Finset.sum_congr rfl fun r hr => hlow r (Finset.mem_range.mp hr),
    Finset.sum_congr rfl fun r hr => hhigh r (Finset.mem_range.mp hr), Finset.sum_const, Finset.card_range, smul_eq_mul]

/-- Below red 128 a row of code 10 has `r` greens, from there on 128 (R83). -/
theorem count_yellow : countTriples (fun p => nearest Config.default p = 0b10#2) = 3137536 := by
  have region (p : Rgb) : nearest Config.default p = 0b10#2 ↔
      (max 128 (256 - p.r.toNat) ≤ p.g.toNat ∧ p.g.toNat < 256) ∧ p.b.toNat < 128 := by
    obtain ⟨-, -, yellow, -⟩ := nearest_default_regions p
    rw [yellow]
    omega
  rw [countTriples_of_interval (fun r => max 128 (256 - r)) (fun _ => 256) (fun _ => le_rfl) region,
    sum_red_halves (low := fun r => r * 128) (high := 128 * 128) (by omega) (by omega), ← Finset.sum_mul, Finset.sum_range_id]
  rfl

/-- Below red 128 a row of the tie has one green, from there on none (R83). -/
theorem count_tie_black_yellow :
    countTriples (fun p => p.r.toNat + p.g.toNat = 255 ∧ p.r.toNat ≤ 127 ∧ p.b.toNat ≤ 127) = 16384 := by
  have region (p : Rgb) : (p.r.toNat + p.g.toNat = 255 ∧ p.r.toNat ≤ 127 ∧ p.b.toNat ≤ 127) ↔
      (255 - p.r.toNat ≤ p.g.toNat ∧ p.g.toNat < if p.r.toNat ≤ 127 then 256 - p.r.toNat else 0) ∧ p.b.toNat < 128 := by
    split <;> omega
  rw [countTriples_of_interval (fun r => 255 - r) (fun r => if r ≤ 127 then 256 - r else 0) (fun r => by split <;> omega) region,
    sum_red_halves (low := fun _ => 128) (high := 0) (fun r hr => by split <;> omega) (fun r hr => by split <;> omega),
    Finset.sum_const, Finset.card_range]
  rfl

theorem count_tie_white_red :
    countTriples (fun p => p.g.toNat + p.b.toNat = 255 ∧ 128 ≤ p.r.toNat ∧ p.g.toNat ≤ 127) =
      countTriples (fun p => p.r.toNat + p.g.toNat = 255 ∧ p.r.toNat ≤ 127 ∧ p.b.toNat ≤ 127) := by
  refine countTriples_eq_of_mirror fun p => ?_
  simp only [mirror, toNat_not_byte]
  omega

/-- Settles O11: code 10 and the tie of black and yellow are counted, the mirror gives their partners, and codes 00 and 01 share
what is left of the space. -/
theorem defaultPaletteCounts : Obligations.DefaultPaletteCounts := by
  have total := countTriples_codes_sum (nearest Config.default)
  have black_white := count_black_eq_count_white
  have red_yellow := count_red_eq_count_yellow
  have yellow := count_yellow
  refine ⟨by omega, by omega, yellow, red_yellow.trans yellow, ?_, ?_⟩
  · exact (countTriples_congr fun p => (default_ties p).1).trans count_tie_black_yellow
  · exact (countTriples_congr fun p => (default_ties p).2).trans (count_tie_white_red.trans count_tie_black_yellow)

end Sys2Proof.Machine
